-- ==== Sys2Proof/Word.lean ====
section
/-! DEFINITION. The widths of the machine (spec/00_scope.md R9): every host-visible register and every store
cell is a byte, the CRC accumulator is 16 bits wide. -/

namespace Sys2Proof

/-- An 8-bit register, port value or store cell; bit 7 is the most significant (R9). -/
abbrev Byte := BitVec 8

/-- The width of the CRC accumulator (R40). -/
abbrev Word16 := BitVec 16

end Sys2Proof
end

