-- ==== Sys2Proof/Config.lean ====
section
/-! DEFINITION. The implementation parameters of spec/00_scope.md R6 and R8 as plain data (State carries one
`Config`, which no step writes), and the free values: constants without a body for what the spec leaves to
"any value" (spec/93_implementation_defined.md). -/

namespace Sys2Proof

/-- What a Track/Sector write does during a Type II/III command (R6, R133, R299). -/
inductive PokePolicy where
  | absorb
  | reject
  deriving DecidableEq, Repr

/-- `RT_LAYOUT`: the filler bytes and lengths of the Read Track image (R250). -/
structure RtLayout where
  gapByte  : Byte
  gap4aLen : Nat
  syncLen  : Nat
  gap1Len  : Nat
  gap2Len  : Nat
  gap3Len  : Nat
  iam      : List Byte
  idam     : List Byte
  dam      : List Byte
  deriving DecidableEq, Repr

/-- The defaults of R250 (the IBM System 34 format). -/
def RtLayout.default : RtLayout where
  gapByte  := 0x4E
  gap4aLen := 80
  syncLen  := 12
  gap1Len  := 50
  gap2Len  := 22
  gap3Len  := 54
  iam      := [0xC2, 0xC2, 0xC2, 0xFC]
  idam     := [0xA1, 0xA1, 0xA1, 0xFE]
  dam      := [0xA1, 0xA1, 0xA1, 0xFB]

/-- The delay parameters of R8, in abstract ticks. All are OPEN in the spec. -/
structure Delays where
  step0    : Nat
  step1    : Nat
  step2    : Nat
  step3    : Nat
  seekEnd  : Nat
  settle   : Nat
  search   : Nat
  multi1   : Nat
  multi2   : Nat
  fi       : Nat
  dataLoss : Nat
  deriving DecidableEq, Repr

/-- `STEP_DELAY[r]` (R8, R95). -/
def Delays.step (d : Delays) (r : BitVec 2) : Nat :=
  match r.getLsbD 1, r.getLsbD 0 with
  | false, false => d.step0
  | false, true  => d.step1
  | true,  false => d.step2
  | true,  true  => d.step3

/-- The controller parameters of R6 and the delays of R8. `NUM_DRIVES` is the length of State's media list.
`wtLen` lists the tracks on which `WT_LEN(t)` differs from its default `track_bytes(t)` (R248). -/
structure Config where
  maxTrack    : Nat
  pokePolicy  : PokePolicy
  ignoreCrc   : Bool
  indexPeriod : Nat
  rtLayout    : RtLayout
  wtLen       : List (Nat × Nat)
  delays      : Delays
  deriving DecidableEq, Repr

/-- The parameters `State.reset` carries: the decided defaults of R6 and R250, and for the OPEN ones the
example values of spec/95_test_vectors.md section 0 (DESIGN CHOICE, notes/assumptions/1.md, unsafe for a
claim that rests on them; every statement quantifies over all configurations). -/
def Config.default : Config where
  maxTrack    := 79
  pokePolicy  := .absorb
  ignoreCrc   := false
  indexPeriod := 2
  rtLayout    := RtLayout.default
  wtLen       := []
  delays      := ⟨3, 6, 10, 15, 1, 15, 2, 1, 1, 5, 1000⟩

/-- FREE VALUE. The byte at an offset after a store access the spec leaves open: what `read_bytes` returns past
the end of the store (93 U4) and what the store holds over the range of a failed `write_bytes` (93 U3). The first
argument is the draw number, the second the offset. Log entry notes/assumptions/5.md, safe for these bytes. -/
opaque Config.freeStoreByte : Nat → Nat → Byte

/-- FREE VALUE. The byte at an offset after `make_track` on a MediaUnit whose format operation is not the
reference one (R65, 93 U6). Log entry notes/assumptions/6.md, safe. -/
opaque Config.freeFormatByte : Nat → Nat → Byte

/-- FREE VALUE. The sector count that MULTI_1 reads on a track that has no geometry (R218 states none for it;
it arises only when the selected medium changes during a command). Log entry notes/assumptions/7.md, safe. -/
opaque Config.freeSectorCount : Nat → Nat

end Sys2Proof
end

