-- ==== Sys2Proof/Machine/State.lean ====
section
/-! DEFINITION. The state of the machine as plain data (spec/10_state.md R20 to R45): the controller block, the
MediaUnits it reaches (spec/20_memory.md R60 to R66), the parameters (R6 to R8), and the queue of stimuli the outside
world has issued and the block has not yet taken (R11, R80). Reset values: R43. -/

namespace Sys2Proof.Machine

/-- Why a step can stop. The block itself never faults (R360): both reasons are about a stimulus that is none of
the spec's. Both are safe: the model stops where the spec gives no behaviour. -/
inductive Fault where
  /-- Raised by the stimuli `set` and `media` when they name a drive outside 0..`NUM_DRIVES`-1 (R38). Safe. -/
  | noSuchDrive
  /-- Raised by the stimulus `media` for a MediaUnit outside the contract of R62 (`MediaUnit.wf`). Safe. -/
  | badMediaUnit
  deriving DecidableEq, Repr

/-- Why a step can refuse. -/
inductive Refusal where
  /-- Raised by an arm of `exec` whose command has no meaning yet; no arm is left that does. Safe. -/
  | notModelled (mnemonic : String)
  deriving DecidableEq, Repr

/-- `cmd_type`, the source's active_command_type (R27). The five Type I commands share `seek`. -/
inductive CmdType where
  | idle
  | seek
  | readSector
  | readMulti
  | writeSector
  | writeMulti
  | readAddress
  | readTrack
  | writeTrack
  | forceInterrupt
  deriving DecidableEq, Repr

/-- `phase`, the eight states of the command state machine (R28). -/
inductive Phase where
  | idle
  | seeking
  | settling
  | searching
  | transferring
  | readingTrack
  | writingTrack
  | forceInterrupt
  deriving DecidableEq, Repr

/-- `status_view`: which meaning the status bits have (R29). -/
inductive StatusView where
  | typeI
  | typeIIandIII
  deriving DecidableEq, Repr

/-- `step_vector`: +1 (`inward`, toward higher tracks) or -1 (`outward`) (R31). -/
inductive Direction where
  | inward
  | outward
  deriving DecidableEq, Repr

/-- `xfer_dir`: the direction of the open transfer session (R39). -/
inductive XferDir where
  | none
  | read
  | write
  deriving DecidableEq, Repr

/-- The seven event kinds, in the order of the table of R330. -/
inductive EventKind where
  | stepSeek
  | seekEnd
  | search
  | fiRearm
  | multi1
  | multi2
  | dataLoss
  deriving DecidableEq, Repr

/-- A pending event: when it fires and the `cmd_type` that scheduled it (R41). -/
structure Slot where
  fireTime : Nat
  owner    : CmdType
  deriving DecidableEq, Repr

/-- One slot per event kind, each empty or pending (R41). -/
structure Slots where
  stepSeek : Option Slot
  seekEnd  : Option Slot
  search   : Option Slot
  fiRearm  : Option Slot
  multi1   : Option Slot
  multi2   : Option Slot
  dataLoss : Option Slot
  deriving DecidableEq, Repr

/-- The scheduler with nothing pending (R43). -/
def Slots.empty : Slots := ⟨none, none, none, none, none, none, none⟩

/-- One zone of a medium: its geometry record and its interleave table (R7, R62, R63). -/
structure Zone where
  sectors    : Nat
  size       : Nat
  sizeCode   : Byte
  interleave : List Byte
  deriving DecidableEq, Repr

/-- An id field `(trk, sd, sec, code)` as a MediaUnit answers it (R63). -/
structure SectorId where
  trk  : Nat
  sd   : Byte
  sec  : Byte
  code : Byte
  deriving DecidableEq, Repr

/-- What a non-conforming medium answers for one physical position, in place of the conforming id (93 U8). -/
structure IdEntry where
  track : Nat
  side  : Bool
  pos   : Nat
  id    : Option SectorId
  deriving DecidableEq, Repr

/-- The metadata of one record: its stored CRC and its deleted mark (R66). -/
structure RecordMeta where
  crc     : Option Word16
  deleted : Bool
  deriving DecidableEq, Repr

/-- The metadata of a record nothing has been recorded for: `crc = none` and `deleted = 0` (R66). -/
def RecordMeta.initial : RecordMeta := ⟨none, false⟩

/-- The store of a MediaUnit: (offset, byte) pairs, offsets strictly rising, no byte equal to what an unlisted
offset reads as (`unlistedByte`). -/
abbrev Memory := List Host.Cell

/-- What an offset of the store that nothing has written reads as. The spec gives no initial content
(DESIGN CHOICE, notes/assumptions/4.md, unsafe for a claim about unwritten bytes). -/
def unlistedByte : Byte := 0x00

/-- A MediaUnit as data (R60 to R66): the two flags, the two-zone geometry, the ids that differ from the
conforming ones, the store and the per-record metadata. `keepsCrc` says whether the medium records CRCs (R66),
`storeFails` that the underlying store refuses writes at present (R64), `formatInert` that `make_track` leaves the
store as it is, as the reference MediaUnit does (R65). -/
structure MediaUnit where
  inserted       : Bool
  writeProtected : Bool
  numTracks      : Nat
  numSides       : Nat
  zoneBoundary   : Nat
  zone0          : Zone
  zone1          : Zone
  idTable        : List IdEntry
  store          : Memory
  records        : List (Nat × RecordMeta)
  keepsCrc       : Bool
  storeFails     : Bool
  formatInert    : Bool
  deriving DecidableEq, Repr

/-- The four ports (R90): every 2-bit port number names one (R91). -/
inductive Port where
  | control
  | track
  | sector
  | data
  deriving DecidableEq, Repr

/-- A stimulus (R11): `write p v` and `read p` (`WR p, v`, `RD p`), `set` (an input change, R138), `fire` (the
timer-firing stimulus, R335), `reset` (R400); and `media d u`, the surrounding system's serialized access to a
MediaUnit between two stimuli (R67), which leaves unit `u` in place of `media[d]`. -/
inductive Stimulus where
  | write (p : Port) (v : Byte)
  | read (p : Port)
  | set (drive : Nat) (side motor : Bool)
  | fire
  | reset
  | media (drive : Nat) (unit : MediaUnit)
  deriving DecidableEq, Repr

/-- The whole state. The fields down to `slots` are the block's own, each with its rule. The rest stand around it:
`config` (R6, R8, fixed), `media` (R60, one unit a drive), and three fields of the MODEL's own: `host`, the stimuli
issued and not yet taken, oldest first; `readValue`, what the latest port read returned; `draws`, how many free values
have been drawn. -/
structure State where
  /-- STATUS (R21). -/
  status : Byte
  /-- COMMAND (R22). -/
  command : Byte
  /-- TRACK (R23). -/
  track : Byte
  /-- SECTOR (R23). -/
  sector : Byte
  /-- DATA (R23). -/
  data : Byte
  /-- The IRQ output (R25). -/
  irq : Bool
  /-- The DRQ output (R26). -/
  drq : Bool
  /-- `cmd_type` (R27). -/
  cmdType : CmdType
  /-- `phase` (R28). -/
  phase : Phase
  /-- `status_view` (R29). -/
  statusView : StatusView
  /-- `view_write` (R29). -/
  viewWrite : Bool
  /-- `physical_track` (R30). -/
  physicalTrack : Nat
  /-- `step_vector` (R31). -/
  stepVector : Direction
  /-- `rotation_cursor` (R32). -/
  rotationCursor : Nat
  /-- `settle_pending` (R33). -/
  settlePending : Bool
  /-- `head_engaged` (R34). -/
  headEngaged : Bool
  /-- `index_ctr` (R35). -/
  indexCtr : Nat
  /-- `int_latch` (R36). -/
  intLatch : BitVec 4
  /-- `fi_ready_ref` (R36). -/
  fiReadyRef : Bool
  /-- `seek_target` (R37). -/
  seekTarget : Nat
  /-- `drive_select` (R38). -/
  driveSelect : Nat
  /-- `side` (R38). -/
  side : Bool
  /-- `motor_on` (R38). -/
  motorOn : Bool
  /-- `xfer_dir` (R39). -/
  xferDir : XferDir
  /-- `xfer_buf` (R39). -/
  xferBuf : List Byte
  /-- `xfer_pos` (R39). -/
  xferPos : Nat
  /-- `xfer_len` (R39). -/
  xferLen : Nat
  /-- `xfer_crc_on` (R39). -/
  xferCrcOn : Bool
  /-- `rec_track` (R39). -/
  recTrack : Nat
  /-- `rec_side` (R39). -/
  recSide : Bool
  /-- `rec_sector` (R39). -/
  recSector : Byte
  /-- `rec_offset` (R39). -/
  recOffset : Nat
  /-- `crc_acc` (R40). -/
  crcAcc : Word16
  /-- `now` (R41). -/
  now : Nat
  /-- The event slots (R41). -/
  slots : Slots
  /-- The parameters (R6, R8): no stimulus writes them (R400). -/
  config : Config
  /-- `media[d]`, one MediaUnit a drive (R60); its length is `NUM_DRIVES`. -/
  media : List MediaUnit
  /-- The model's own: the stimuli not yet taken, oldest first (R80). -/
  host : List Stimulus
  /-- The model's own: the value the latest port read returned. -/
  readValue : Option Byte
  /-- The model's own: the number of free values drawn. -/
  draws : Nat
  deriving DecidableEq, Repr

/-- The medium `State.reset` carries: inserted, unprotected, blank, with the geometry of fixture M_EX
(spec/95_test_vectors.md section 0; DESIGN CHOICE, notes/assumptions/2.md, unsafe for a claim that rests on it). -/
def MediaUnit.blank : MediaUnit where
  inserted       := true
  writeProtected := false
  numTracks      := 80
  numSides       := 2
  zoneBoundary   := 40
  zone0          := ⟨5, 256, 1, [0, 3, 1, 4, 2]⟩
  zone1          := ⟨8, 128, 0, [0, 4, 1, 5, 2, 6, 3, 7]⟩
  idTable        := []
  store          := []
  records        := []
  keepsCrc       := true
  storeFails     := false
  formatInert    := true

/-- The state right after reset (R43, R400): the block at the values of R43 with no input levels (0, 0, 0), and
around it the parameters and the medium of notes/assumptions/1.md and 2.md, no stimulus issued. -/
def State.reset : State where
  status         := 0x00
  command        := 0x00
  track          := 0x00
  sector         := 0x00
  data           := 0x00
  irq            := false
  drq            := false
  cmdType        := .idle
  phase          := .idle
  statusView     := .typeI
  viewWrite      := false
  physicalTrack  := 0
  stepVector     := .inward
  rotationCursor := 0
  settlePending  := false
  headEngaged    := false
  indexCtr       := 0
  intLatch       := 0
  fiReadyRef     := false
  seekTarget     := 0
  driveSelect    := 0
  side           := false
  motorOn        := false
  xferDir        := .none
  xferBuf        := []
  xferPos        := 0
  xferLen        := 0
  xferCrcOn      := false
  recTrack       := 0
  recSide        := false
  recSector      := 0
  recOffset      := 0
  crcAcc         := 0xFFFF
  now            := 0
  slots          := Slots.empty
  config         := Config.default
  media          := [MediaUnit.blank]
  host           := []
  readValue      := none
  draws          := 0

end Sys2Proof.Machine
end

