-- ==== Sys2Proof/Machine/Flags.lean ====
section
/-! DEFINITION. The STATUS register bit by bit (spec/30_encoding.md R101, R102) and the error codes of
spec/60_exceptions.md R361 to R366. -/

namespace Sys2Proof.Machine

/-- `S[i] <- b` (R10): write bit `i` of a byte. -/
def setBit (v : Byte) (i : Nat) (b : Bool) : Byte :=
  if b then v ||| (1#8 <<< i) else v &&& ~~~(1#8 <<< i)

/-- Bit 7, NOTREADY, in both views (R101, R102). -/
def bitNotReady : Nat := 7
/-- Bit 6, WRITE-PROTECT, in both views. -/
def bitWriteProtect : Nat := 6
/-- Bit 5: HEAD-ENGAGED (Type I) or WRITE-FAULT (Type II/III). -/
def bitHeadOrFault : Nat := 5
/-- Bit 4: SEEK-ERR (Type I) or RECNFND (Type II/III). -/
def bitSeekOrRecord : Nat := 4
/-- Bit 3, CRC-ERR, in both views. -/
def bitCrcErr : Nat := 3
/-- Bit 2: TRACK00 (Type I) or LOSTDATA (Type II/III). -/
def bitTrack0OrLost : Nat := 2
/-- Bit 1: INDEX (Type I) or DRQ (Type II/III). -/
def bitIndexOrDrq : Nat := 1
/-- Bit 0, BUSY, in both views. -/
def bitBusy : Nat := 0

/-- `S[i] <- b` on the STATUS register. -/
def State.setStatusBit (s : State) (i : Nat) (b : Bool) : State :=
  { s with status := setBit s.status i b }

/-- BUSY, `STATUS[0]` (R24). -/
def State.busy (s : State) : Bool := s.status.getLsbD bitBusy

/-- The errors a command can end with (R361 to R366). -/
inductive ErrorBit where
  | notReady
  | writeFault
  | seekErr
  | recordNotFound
  | crcErr
  | lostData
  deriving DecidableEq, Repr

/-- The code of an error: the STATUS bit it sets (R161). -/
def ErrorBit.index : ErrorBit → Nat
  | .notReady => bitNotReady
  | .writeFault => bitHeadOrFault
  | .seekErr => bitSeekOrRecord
  | .recordNotFound => bitSeekOrRecord
  | .crcErr => bitCrcErr
  | .lostData => bitTrack0OrLost

/-- STATUS after the common dispatch of R151: bit 7 from readiness, bits 6 to 1 clear, BUSY set. -/
def dispatchStatus (ready : Bool) : Byte :=
  setBit (setBit 0x00 bitNotReady (!ready)) bitBusy true

/-- The Type I part of the status recomputation (R131), on the stored byte, for a ready drive. -/
def recomputeTypeI (v : Byte) (writeProtected headEngaged track0 index : Bool) : Byte :=
  setBit (setBit (setBit (setBit v bitWriteProtect writeProtected)
    bitHeadOrFault headEngaged) bitTrack0OrLost track0) bitIndexOrDrq index

end Sys2Proof.Machine
end

