-- ==== Sys2Proof/Syntax.lean ====
section
/-! DEFINITION. The instruction set: the 13 commands of spec/opcode_table.json, one constructor a row. -/

namespace Sys2Proof

/-- A command byte, by its fields (spec/30_encoding.md R93 to R98). Every bit of the byte is an operand, the bits
the block ignores too (E, and the `x` bits of R100), because COMMAND keeps the byte as it was written (R22).
`h` head load, `v` verify, `r` stepping rate, `u` track-register update, `sd` side to compare (S), `c` side
compare enable, `e` settling flag, `a0` deleted-data mark, `cond` the Force Interrupt conditions I3..I0. -/
inductive Instr where
  | restore (h v : Bool) (r : BitVec 2)
  | seek (h v : Bool) (r : BitVec 2)
  | step (u h v : Bool) (r : BitVec 2)
  | stepIn (u h v : Bool) (r : BitVec 2)
  | stepOut (u h v : Bool) (r : BitVec 2)
  | readSector (sd e c x0 : Bool)
  | readMultiple (sd e c x0 : Bool)
  | writeSector (sd e c a0 : Bool)
  | writeMultiple (sd e c a0 : Bool)
  | readAddress (x3 e x1 x0 : Bool)
  | forceInterrupt (cond : BitVec 4)
  | readTrack (x3 e x1 x0 : Bool)
  | writeTrack (x3 e x1 x0 : Bool)
  deriving DecidableEq, Repr

end Sys2Proof
end

