-- ==== Sys2Proof/WellFormed.lean ====
section
/-! DEFINITION. The checks on an instruction and on the configuration. (The checks on a MediaUnit and on a stimulus
stand in Machine/Media.lean and Machine/Stimuli.lean, beside their types.) -/

namespace Sys2Proof

/-- Every term of `Instr` is a command: each field has exactly the width the format gives it, no command byte is
illegal (R99, R100), so there is no ill-formed instruction to refuse. -/
def Instr.wf : Instr → Bool
  | .restore _ _ _ => true
  | .seek _ _ _ => true
  | .step _ _ _ _ => true
  | .stepIn _ _ _ _ => true
  | .stepOut _ _ _ _ => true
  | .readSector _ _ _ _ => true
  | .readMultiple _ _ _ _ => true
  | .writeSector _ _ _ _ => true
  | .writeMultiple _ _ _ _ => true
  | .readAddress _ _ _ _ => true
  | .forceInterrupt _ => true
  | .readTrack _ _ _ _ => true
  | .writeTrack _ _ _ _ => true

/-- The three address marks are four bytes long (the image length of R245 counts on it). -/
def RtLayout.wf (l : RtLayout) : Bool :=
  l.iam.length == 4 && l.idam.length == 4 && l.dam.length == 4

/-- R6: `MAX_TRACK` is at most 255 and `INDEX_PERIOD` at least 1. -/
def Config.wf (c : Config) : Bool :=
  decide (c.maxTrack ≤ 255) && decide (1 ≤ c.indexPeriod) && c.rtLayout.wf

end Sys2Proof
end

