-- ==== Sys2Proof/Decode.lean ====
section
/-! DEFINITION. Decoding a command byte, total over the 256 bytes (spec/30_encoding.md R93, R99), and after it the
encoder, written from the formats of R94, R96, R97 and R98. -/

namespace Sys2Proof

/-- The bits [1:0] of a command byte: the stepping rate (R94). -/
def rateField (b : Byte) : BitVec 2 := b.extractLsb' 0 2

/-- The bits [3:0] of a command byte: the Force Interrupt conditions (R98). -/
def condField (b : Byte) : BitVec 4 := b.extractLsb' 0 4

/-- R93 and R99: bits [7:4] select the row; the rest are its fields. No byte is illegal. -/
def decode (b : Byte) : Instr :=
  match b.getLsbD 7, b.getLsbD 6, b.getLsbD 5, b.getLsbD 4 with
  | false, false, false, false => .restore (b.getLsbD 3) (b.getLsbD 2) (rateField b)
  | false, false, false, true  => .seek (b.getLsbD 3) (b.getLsbD 2) (rateField b)
  | false, false, true,  u     => .step u (b.getLsbD 3) (b.getLsbD 2) (rateField b)
  | false, true,  false, u     => .stepIn u (b.getLsbD 3) (b.getLsbD 2) (rateField b)
  | false, true,  true,  u     => .stepOut u (b.getLsbD 3) (b.getLsbD 2) (rateField b)
  | true,  false, false, false => .readSector (b.getLsbD 3) (b.getLsbD 2) (b.getLsbD 1) (b.getLsbD 0)
  | true,  false, false, true  => .readMultiple (b.getLsbD 3) (b.getLsbD 2) (b.getLsbD 1) (b.getLsbD 0)
  | true,  false, true,  false => .writeSector (b.getLsbD 3) (b.getLsbD 2) (b.getLsbD 1) (b.getLsbD 0)
  | true,  false, true,  true  => .writeMultiple (b.getLsbD 3) (b.getLsbD 2) (b.getLsbD 1) (b.getLsbD 0)
  | true,  true,  false, false => .readAddress (b.getLsbD 3) (b.getLsbD 2) (b.getLsbD 1) (b.getLsbD 0)
  | true,  true,  false, true  => .forceInterrupt (condField b)
  | true,  true,  true,  false => .readTrack (b.getLsbD 3) (b.getLsbD 2) (b.getLsbD 1) (b.getLsbD 0)
  | true,  true,  true,  true  => .writeTrack (b.getLsbD 3) (b.getLsbD 2) (b.getLsbD 1) (b.getLsbD 0)

/-- Four flag bits, the first the most significant. -/
def flagNibble (b3 b2 b1 b0 : Bool) : BitVec 4 :=
  BitVec.ofBool b3 ++ BitVec.ofBool b2 ++ BitVec.ofBool b1 ++ BitVec.ofBool b0

/-- `h V r1 r0`, the low half of a Type I command (R94). -/
def typeINibble (h v : Bool) (r : BitVec 2) : BitVec 4 :=
  BitVec.ofBool h ++ BitVec.ofBool v ++ r

/-- The one byte of a command (R92), from the formats of R94, R96, R97 and R98. -/
def encode : Instr → Byte
  | .restore h v r             => 0b0000#4 ++ typeINibble h v r
  | .seek h v r                => 0b0001#4 ++ typeINibble h v r
  | .step u h v r              => 0b001#3 ++ BitVec.ofBool u ++ typeINibble h v r
  | .stepIn u h v r            => 0b010#3 ++ BitVec.ofBool u ++ typeINibble h v r
  | .stepOut u h v r           => 0b011#3 ++ BitVec.ofBool u ++ typeINibble h v r
  | .readSector sd e c x0      => 0b1000#4 ++ flagNibble sd e c x0
  | .readMultiple sd e c x0    => 0b1001#4 ++ flagNibble sd e c x0
  | .writeSector sd e c a0     => 0b1010#4 ++ flagNibble sd e c a0
  | .writeMultiple sd e c a0   => 0b1011#4 ++ flagNibble sd e c a0
  | .readAddress x3 e x1 x0    => 0b1100#4 ++ flagNibble x3 e x1 x0
  | .forceInterrupt cond       => 0b1101#4 ++ cond
  | .readTrack x3 e x1 x0      => 0b1110#4 ++ flagNibble x3 e x1 x0
  | .writeTrack x3 e x1 x0     => 0b1111#4 ++ flagNibble x3 e x1 x0

/-- The command byte whose bits, numbered as spec/opcode_table.json numbers them, are the low `nbits` of `w`
(every row has 8: R92, R106). -/
def tableByte (nbits w : Nat) : Byte := BitVec.ofNat 8 (w % 2 ^ nbits)

/-- What the decoder reads from a row's word. It never refuses (R99). -/
def decodeTableWord (nbits w : Nat) : Option Instr := some (decode (tableByte nbits w))

/-- The mnemonic of a command's row (R93). -/
def Instr.mnemonic : Instr → String
  | .restore _ _ _ => "RESTORE"
  | .seek _ _ _ => "SEEK"
  | .step _ _ _ _ => "STEP"
  | .stepIn _ _ _ _ => "STEP_IN"
  | .stepOut _ _ _ _ => "STEP_OUT"
  | .readSector _ _ _ _ => "READ_SECTOR"
  | .readMultiple _ _ _ _ => "READ_MULTIPLE"
  | .writeSector _ _ _ _ => "WRITE_SECTOR"
  | .writeMultiple _ _ _ _ => "WRITE_MULTIPLE"
  | .readAddress _ _ _ _ => "READ_ADDRESS"
  | .forceInterrupt _ => "FORCE_INTERRUPT"
  | .readTrack _ _ _ _ => "READ_TRACK"
  | .writeTrack _ _ _ _ => "WRITE_TRACK"

end Sys2Proof
end

