-- ==== Sys2Proof/Machine/Operands.lean ====
section
/-! DEFINITION. Every operand form of the commands (spec/30_encoding.md R105): the flags of the running command are
read from COMMAND when a rule runs, the Seek target from DATA, the sector from SECTOR, the track from
`physical_track`, the side from the `side` input. -/

namespace Sys2Proof.Machine

/-- The h flag, COMMAND[3] (R94). -/
def State.flagH (s : State) : Bool := s.command.getLsbD 3
/-- The V flag, COMMAND[2] (R94). -/
def State.flagV (s : State) : Bool := s.command.getLsbD 2
/-- The u flag, COMMAND[4], which only the Step family has (R94). -/
def State.flagU (s : State) : Bool := s.command.getLsbD 4
/-- The C flag, COMMAND[1]: side compare enable (R96). -/
def State.flagC (s : State) : Bool := s.command.getLsbD 1
/-- The S flag, COMMAND[3]: the side to compare against (R96). -/
def State.flagS (s : State) : Bool := s.command.getLsbD 3
/-- The a0 flag, COMMAND[0]: the deleted-data mark (R96). -/
def State.flagA0 (s : State) : Bool := s.command.getLsbD 0
/-- `STEP_DELAY[COMMAND[1:0]]` (R95). -/
def State.stepDelay (s : State) : Nat := s.config.delays.step (rateField s.command)
/-- The condition field I = COMMAND[3:0] of a Force Interrupt (R98, R270). -/
def State.conditions (s : State) : BitVec 4 := condField s.command

/-- The side as the number that `locate` and the id fields use (R9). -/
def sideNumber (side : Bool) : Nat := side.toNat
/-- The side as the byte that an id field carries (R63). -/
def sideByte (side : Bool) : Byte := BitVec.ofNat 8 side.toNat

/-- `clamp(x, 0, MAX_TRACK)` (R9), on an integer track number. -/
def clampTrack (x : Int) (maxTrack : Nat) : Nat := (min (max x 0) (maxTrack : Int)).toNat

/-- The Seek target: DATA clamped to `MAX_TRACK`, read at dispatch (R182). -/
def State.seekOperand (s : State) : Nat := min s.data.toNat s.config.maxTrack

/-- `step_vector` as +1 or -1 (R31). -/
def Direction.delta : Direction → Int
  | .inward => 1
  | .outward => -1

/-- `sign(target - current)` (R9): +1, 0 or -1. -/
def signToward (current target : Nat) : Int := Int.sign ((target : Int) - (current : Int))

/-- The `cmd_type` of a command (R103). -/
def tagOf : Instr → CmdType
  | .restore _ _ _ => .seek
  | .seek _ _ _ => .seek
  | .step _ _ _ _ => .seek
  | .stepIn _ _ _ _ => .seek
  | .stepOut _ _ _ _ => .seek
  | .readSector _ _ _ _ => .readSector
  | .readMultiple _ _ _ _ => .readMulti
  | .writeSector _ _ _ _ => .writeSector
  | .writeMultiple _ _ _ _ => .writeMulti
  | .readAddress _ _ _ _ => .readAddress
  | .forceInterrupt _ => .forceInterrupt
  | .readTrack _ _ _ _ => .readTrack
  | .writeTrack _ _ _ _ => .writeTrack

/-- A Force Interrupt byte, `v[7:4] = 0xD` (R150). -/
def isForceInterrupt : Instr → Bool
  | .forceInterrupt _ => true
  | _ => false

/-- The Type I commands that move by `step_vector` and may update TRACK on each step (R186). -/
def isStepFamily : Instr → Bool
  | .step _ _ _ _ => true
  | .stepIn _ _ _ _ => true
  | .stepOut _ _ _ _ => true
  | _ => false

/-- The tags of the read commands: those a Data read drains (R137). -/
def CmdType.isRead : CmdType → Bool
  | .readSector => true
  | .readMulti => true
  | .readAddress => true
  | .readTrack => true
  | _ => false

/-- The tags of the write commands: those a Data write feeds (R136), and whose dispatch checks the write
protection and sets `view_write` (R103, R153). -/
def CmdType.isWrite : CmdType → Bool
  | .writeSector => true
  | .writeMulti => true
  | .writeTrack => true
  | _ => false

/-- The tags of the Type II commands, which have the side-compare flags (R96). -/
def CmdType.isTypeII : CmdType → Bool
  | .readSector => true
  | .readMulti => true
  | .writeSector => true
  | .writeMulti => true
  | _ => false

/-- The Type II/III tags (R133, R136). -/
def CmdType.isTransfer (c : CmdType) : Bool := c.isRead || c.isWrite

/-- The tags under which BUSY is 1: all but `IDLE` and `FORCE_INTERRUPT` (R24). -/
def CmdType.isBusy : CmdType → Bool
  | .idle => false
  | .forceInterrupt => false
  | _ => true

end Sys2Proof.Machine
end

