-- ==== Sys2Proof/Machine/Media.lean ====
section
/-! DEFINITION. The MediaUnit contract (spec/20_memory.md R60 to R67): the store as a canonical sparse memory, the
geometry and the ids, the record metadata; and the sector address resolution over it (R68 to R73). -/

namespace Sys2Proof.Machine

/-! ### Canonical sparse data: a sorted list of (key, value) pairs without default values -/

/-- The value at a key; `d` where the list has none. -/
def sparseGet {α : Type} (d : α) : List (Nat × α) → Nat → α
  | [], _ => d
  | (k, v) :: rest, a => if k = a then v else sparseGet d rest a

/-- Write a value at a key, keeping the form: writing `d` removes the entry. -/
def sparseSet {α : Type} [DecidableEq α] (d : α) (a : Nat) (x : α) : List (Nat × α) → List (Nat × α)
  | [] => if x = d then [] else [(a, x)]
  | (k, v) :: rest =>
    if a < k then (if x = d then (k, v) :: rest else (a, x) :: (k, v) :: rest)
    else if a = k then (if x = d then rest else (a, x) :: rest)
    else (k, v) :: sparseSet d a x rest

/-- The canonical form: keys strictly rising, no entry equal to the default. -/
abbrev sparseWf {α : Type} [DecidableEq α] (d : α) (m : List (Nat × α)) : Prop :=
  m.Pairwise (fun p q => p.1 < q.1) ∧ ∀ p ∈ m, p.2 ≠ d

/-- The canonical form of a store. -/
abbrev Memory.wf (m : Memory) : Prop := sparseWf unlistedByte m

/-- One byte of the store. -/
def Memory.read (m : Memory) (off : Nat) : Byte := sparseGet unlistedByte m off

/-- Write one byte of the store. -/
def Memory.write (m : Memory) (off : Nat) (b : Byte) : Memory := sparseSet unlistedByte off b m

/-- Write bytes at consecutive offsets. -/
def Memory.writeRange (m : Memory) (off : Nat) : List Byte → Memory
  | [] => m
  | b :: bs => Memory.writeRange (Memory.write m off b) (off + 1) bs

/-! ### Geometry and address resolution -/

/-- A drive with no MediaUnit behind it: what `media[drive_select]` is in a state whose `drive_select` names no
unit (no run reaches one: `set` checks the number). -/
def MediaUnit.absent : MediaUnit where
  inserted       := false
  writeProtected := false
  numTracks      := 0
  numSides       := 0
  zoneBoundary   := 0
  zone0          := ⟨1, 0, 0, []⟩
  zone1          := ⟨1, 0, 0, []⟩
  idTable        := []
  store          := []
  records        := []
  keepsCrc       := false
  storeFails     := true
  formatInert    := true

/-- `get_track_geometry(t)`: none off the medium, else the zone of the track (R62). -/
def MediaUnit.geometry (u : MediaUnit) (t : Nat) : Option Zone :=
  if u.numTracks ≤ t then none
  else if t < u.zoneBoundary then some u.zone0
  else some u.zone1

/-- `track_bytes(t)` (R68); 0 off the medium. -/
def MediaUnit.trackBytes (u : MediaUnit) (t : Nat) : Nat :=
  match u.geometry t with
  | none => 0
  | some g => g.sectors * g.size

/-- The sum of `track_bytes(u)` over the tracks below `t` (R70). -/
def MediaUnit.bytesBefore (u : MediaUnit) : Nat → Nat
  | 0 => 0
  | t + 1 => u.bytesBefore t + u.trackBytes t

/-- `side_bytes` (R68). -/
def MediaUnit.sideBytes (u : MediaUnit) : Nat := u.bytesBefore u.numTracks

/-- The size of the store: `num_sides * side_bytes` (R64, R78). -/
def MediaUnit.storeSize (u : MediaUnit) : Nat := u.numSides * u.sideBytes

/-- `size(t)`, the sector size of a track's zone (R70); 0 off the medium. -/
def MediaUnit.sectorSize (u : MediaUnit) (t : Nat) : Nat :=
  match u.geometry t with
  | none => 0
  | some g => g.size

/-- `locate(t, s, k)` (R70, with the within-track offset of 90 C3). -/
def MediaUnit.locate (u : MediaUnit) (t : Nat) (side : Bool) (k : Nat) : Nat :=
  sideNumber side * u.sideBytes + u.bytesBefore t + k * u.sectorSize t

/-- The conforming id of a position (R63): none on an unreadable track, off the sides of the medium, or past the
interleave table. -/
def MediaUnit.conformingId (u : MediaUnit) (t : Nat) (side : Bool) (p : Nat) : Option SectorId :=
  match u.geometry t with
  | none => none
  | some g =>
    if u.numSides ≤ sideNumber side then none
    else match g.interleave[p]? with
      | none => none
      | some sec => some ⟨t % 256, sideByte side, sec, g.sizeCode⟩

/-- `get_sector_id(t, s, p)`: what the medium's own table says for the position, else the conforming id
(R63, 93 U8). -/
def MediaUnit.sectorId (u : MediaUnit) (t : Nat) (side : Bool) (p : Nat) : Option SectorId :=
  match u.idTable.find? (fun e => e.track == t && e.side == side && e.pos == p) with
  | some e => e.id
  | none => u.conformingId t side p

/-- The positions a search meets from cursor `c` on a track of `n` sectors, in rotational order (R73). -/
def searchOrder (c n : Nat) : List Nat := (List.range n).map fun i => (c % n + i) % n

/-- Whether the id at a position is the wanted one (R73): the sector number equal, and the side too when side
compare is requested. -/
def MediaUnit.matchAt (u : MediaUnit) (t : Nat) (side : Bool) (wanted : Byte) (cmp cmpSide : Bool) (p : Nat) :
    Option (Nat × SectorId) :=
  match u.sectorId t side p with
  | none => none
  | some id => if id.sec = wanted ∧ (cmp = false ∨ id.sd = sideByte cmpSide) then some (p, id) else none

/-- `search_sector` (R73) from a cursor: the position and the id found, if any. The cursor after a match is
`(p + 1) mod N`; a search that finds nothing leaves it. -/
def MediaUnit.search (u : MediaUnit) (t : Nat) (side : Bool) (cursor : Nat) (wanted : Byte) (cmp cmpSide : Bool) :
    Option (Nat × SectorId) :=
  match u.geometry t with
  | none => none
  | some g => (searchOrder cursor g.sectors).findSome? (u.matchAt t side wanted cmp cmpSide)

/-! ### The store -/

/-- `read_bytes(off, n)` (R64): the store's bytes; past the end of the store each is a free value of the given draw
(93 U4). Of a range that straddles the end R64 and 93 U4 leave every byte open; the model frees the bytes past the end
and takes those within the store from it (DESIGN CHOICE, notes/assumptions/5.md, unsafe for a claim about them). -/
def MediaUnit.readBytes (u : MediaUnit) (draw off n : Nat) : List Byte :=
  let size := u.storeSize
  (List.range n).map fun i =>
    if off + i < size then u.store.read (off + i) else Config.freeStoreByte draw (off + i)

/-- Whether `write_bytes` of `n` bytes at `off` answers `fail` (R64): past the end of the store, or the underlying
store refuses the write. -/
def MediaUnit.writeFails (u : MediaUnit) (off n : Nat) : Bool :=
  u.storeFails || decide (u.storeSize < off + n)

/-- What a failed `write_bytes` leaves over its range, as far as it lies in the store (93 U3). That nothing else changes
is the model's choice (DESIGN CHOICE, notes/assumptions/5.md). -/
def MediaUnit.freeRange (u : MediaUnit) (draw off n : Nat) : List Byte :=
  (List.range (min n (u.storeSize - off))).map fun i => Config.freeStoreByte draw (off + i)

/-- `write_bytes(off, bytes)` (R64): the unit after it, and whether it answered `ok`. -/
def MediaUnit.writeBytes (u : MediaUnit) (draw off : Nat) (bytes : List Byte) : MediaUnit × Bool :=
  if u.writeFails off bytes.length then
    ({ u with store := u.store.writeRange off (u.freeRange draw off bytes.length) }, false)
  else ({ u with store := u.store.writeRange off bytes }, true)

/-- A store whose every byte is a free value of the given draw, in canonical form (93 U6). -/
def freeImage (draw size : Nat) : Memory :=
  (List.range size).filterMap fun o =>
    if Config.freeFormatByte draw o = unlistedByte then none else some (o, Config.freeFormatByte draw o)

/-- `make_track(t, s)` (R65): no effect on the store of the reference unit; media-defined, so every byte free, on
another. -/
def MediaUnit.makeTrack (u : MediaUnit) (draw : Nat) (_t : Nat) (_side : Bool) : MediaUnit :=
  if u.formatInert then u else { u with store := freeImage draw u.storeSize }

/-! ### Record metadata (R66) -/

/-- The key of record (t, s, sec) in the metadata map. -/
def recordKey (t : Nat) (side : Bool) (sec : Byte) : Nat := (t * 2 + side.toNat) * 256 + sec.toNat

/-- The metadata of a record. -/
def MediaUnit.record (u : MediaUnit) (t : Nat) (side : Bool) (sec : Byte) : RecordMeta :=
  sparseGet RecordMeta.initial u.records (recordKey t side sec)

/-- Replace the metadata of a record. -/
def MediaUnit.setRecord (u : MediaUnit) (t : Nat) (side : Bool) (sec : Byte) (m : RecordMeta) : MediaUnit :=
  { u with records := sparseSet RecordMeta.initial (recordKey t side sec) m u.records }

/-- `read_stored_crc(t, s, sec)` (R66). -/
def MediaUnit.readStoredCrc (u : MediaUnit) (t : Nat) (side : Bool) (sec : Byte) : Option Word16 :=
  (u.record t side sec).crc

/-- `write_stored_crc(t, s, sec, c)` (R66): a medium that keeps no CRCs discards it. -/
def MediaUnit.writeStoredCrc (u : MediaUnit) (t : Nat) (side : Bool) (sec : Byte) (c : Word16) : MediaUnit :=
  if u.keepsCrc then u.setRecord t side sec { u.record t side sec with crc := some c } else u

/-- `mark_deleted(t, s, sec, flag)` (R66). -/
def MediaUnit.markDeleted (u : MediaUnit) (t : Nat) (side : Bool) (sec : Byte) (flag : Bool) : MediaUnit :=
  u.setRecord t side sec { u.record t side sec with deleted := flag }

/-! ### The unit the block talks to -/

/-- The contract a MediaUnit must meet: at least one sector in each zone (R62), one or two sides (R7), and the store
and the metadata in canonical form. -/
def MediaUnit.wf (u : MediaUnit) : Bool :=
  decide (1 ≤ u.zone0.sectors) && decide (1 ≤ u.zone1.sectors) && decide (1 ≤ u.numSides) &&
  decide (u.numSides ≤ 2) && decide (Memory.wf u.store) && decide (sparseWf RecordMeta.initial u.records)

/-- `media[drive_select]`, sampled now (R60). -/
def State.unit (s : State) : MediaUnit := s.media.getD s.driveSelect MediaUnit.absent

/-- Put a unit back in `media[drive_select]`. -/
def State.setUnit (s : State) (u : MediaUnit) : State := { s with media := s.media.set s.driveSelect u }

/-- `ready` (R42): the medium inserted and the motor on. -/
def State.ready (s : State) : Bool := s.unit.inserted && s.motorOn

/-- `WT_LEN(t)` (R6, R248): the configured length, by default `track_bytes(t)`. -/
def State.writeTrackLength (s : State) (t : Nat) : Nat :=
  match s.config.wtLen.find? (fun e => e.1 == t) with
  | some e => e.2
  | none => s.unit.trackBytes t

end Sys2Proof.Machine
end

