-- ==== Sys2Proof/Machine/Ops.lean ====
section
/-! DEFINITION. The shared operations on the state: the scheduler (spec/48_scheduler.md R332 to R334), how a command
ends (`complete` and `abort`, spec/41_dispatch.md R160 and R161: the block's form of taking an exception, R370), the
acceptance and the common dispatch of a command (R150, R151, R153), and reset (R400). -/

namespace Sys2Proof.Machine

/-! ### The scheduler -/

/-- The seven kinds, in the order of R330, which is the tie order of R338. -/
def EventKind.all : List EventKind := [.stepSeek, .seekEnd, .search, .fiRearm, .multi1, .multi2, .dataLoss]

/-- The slot of a kind. -/
def Slots.get (q : Slots) : EventKind → Option Slot
  | .stepSeek => q.stepSeek
  | .seekEnd => q.seekEnd
  | .search => q.search
  | .fiRearm => q.fiRearm
  | .multi1 => q.multi1
  | .multi2 => q.multi2
  | .dataLoss => q.dataLoss

/-- Replace the slot of a kind. -/
def Slots.put (q : Slots) (k : EventKind) (x : Option Slot) : Slots :=
  match k with
  | .stepSeek => { q with stepSeek := x }
  | .seekEnd => { q with seekEnd := x }
  | .search => { q with search := x }
  | .fiRearm => { q with fiRearm := x }
  | .multi1 => { q with multi1 := x }
  | .multi2 => { q with multi2 := x }
  | .dataLoss => { q with dataLoss := x }

/-- The slots with one event pending. -/
def Slots.only (k : EventKind) (x : Slot) : Slots := Slots.empty.put k (some x)

/-- The earlier of two pending events; on equal fire times the first one (R338). -/
def earlierEvent : Option (EventKind × Slot) → Option (EventKind × Slot) → Option (EventKind × Slot)
  | none, y => y
  | some x, none => some x
  | some x, some y => if y.2.fireTime < x.2.fireTime then some y else some x

/-- The pending event with the least fire time, ties by the kind order (R335, R338). -/
def Slots.next (q : Slots) : Option (EventKind × Slot) :=
  EventKind.all.foldl (fun best k => earlierEvent best ((q.get k).map fun x => (k, x))) none

/-- `schedule(kind, d)` (R332): replaces a pending event of the kind, tagged with `cmd_type`. -/
def State.schedule (s : State) (k : EventKind) (d : Nat) : State :=
  { s with slots := s.slots.put k (some ⟨s.now + d, s.cmdType⟩) }

/-- `cancel(kind)` (R333). -/
def State.cancel (s : State) (k : EventKind) : State := { s with slots := s.slots.put k none }

/-- `cancel_all()` (R334). -/
def State.cancelAll (s : State) : State := { s with slots := Slots.empty }

/-! ### How a command ends -/

/-- `complete()` (R160). -/
def State.complete (s : State) : State :=
  { s.cancelAll with
    drq := false
    xferDir := .none
    cmdType := .idle
    phase := .idle
    status := setBit s.status bitBusy false
    irq := true }

/-- Set the STATUS bits of a list of errors. -/
def setErrorBits (v : Byte) : List ErrorBit → Byte
  | [] => v
  | e :: es => setErrorBits (setBit v e.index true) es

/-- `abort(bits)` (R161, R370): the error bits set, then `complete()`. -/
def State.abort (s : State) (errors : List ErrorBit) : State :=
  State.complete { s with status := setErrorBits s.status errors }

/-- The acknowledgement of a command's end by the host (R132, R371): a status read clears IRQ. -/
def State.acknowledge (s : State) : State := { s with irq := false }

/-! ### Acceptance and dispatch -/

/-- The effect of accepting a command byte (R150): COMMAND holds it, IRQ is cleared. -/
def State.accept (s : State) (i : Instr) : State := { s with command := encode i, irq := false }

/-- `command_write` (R150, R403): while BUSY only a Force Interrupt is accepted, and any other command is ignored
without a change of state. -/
def acceptCommand (i : Instr) (body : State → State) (s : State) : Host.Outcome State Fault Refusal :=
  if s.busy && !isForceInterrupt i then .next s else .next (body (s.accept i))

/-- The part of the common dispatch (R151) before the case on the command's type. -/
def State.dispatch (s : State) (tag : CmdType) : State :=
  { s.cancelAll with
    drq := false
    xferDir := .none
    status := dispatchStatus s.ready
    cmdType := tag }

/-- The Type I view (R103); `view_write` is kept (R29 by inference: DEDUCED, notes/assumptions/16.md). -/
def State.viewTypeI (s : State) : State := { s with statusView := .typeI }

/-- The Type II/III view (R103): `view_write` says whether the command is a write. -/
def State.viewTransfer (s : State) : State :=
  { s with statusView := .typeIIandIII, viewWrite := s.cmdType.isWrite }

/-- The end of the prologue of R153 when every check passed: the head engages, the settle delay is taken if one is
pending, SEARCH is scheduled. -/
def State.awaitSearch (s : State) : State :=
  let d := if s.settlePending then s.config.delays.settle else s.config.delays.search
  State.schedule { s with headEngaged := true, settlePending := false, phase := .settling } .search d

/-- `type23_prologue` (R153, R369): not ready, then write protection, then side compare; the first that fails
aborts. -/
def State.prologue (s : State) : State :=
  if s.ready = false then s.abort [.notReady]
  else if s.cmdType.isWrite && s.unit.writeProtected then s.abort [.writeFault]
  else if s.cmdType.isTypeII && s.flagC && (s.flagS != s.side) then s.abort [.recordNotFound]
  else s.awaitSearch

/-- The dispatch of a Type II or III command (R151, R153). -/
def State.dispatchTransfer (s : State) (tag : CmdType) : State := (s.dispatch tag).viewTransfer.prologue

/-! ### Reset -/

/-- The stimulus RESET (R400): every field of the block at its value of R43; the inputs keep their levels (R38), and
the parameters, the media and what the outside world holds are not touched. -/
def State.resetBlock (s : State) : State :=
  { State.reset with
    driveSelect := s.driveSelect
    side := s.side
    motorOn := s.motorOn
    config := s.config
    media := s.media
    host := s.host
    readValue := s.readValue
    draws := s.draws }

end Sys2Proof.Machine
end

