-- ==== Sys2Proof/Machine/TypeI.lean ====
section
/-! DEFINITION. The Type I commands (spec/42_type1.md R180 to R188): RESTORE, SEEK, STEP, STEP_IN, STEP_OUT, and the
step and arrival events they share. -/

namespace Sys2Proof.Machine

/-- The end of the shared dispatch (R180): the first step, or the arrival when no step is needed. -/
def State.startMotion (s : State) : State :=
  if s.seekTarget ≠ s.physicalTrack then s.schedule .stepSeek s.stepDelay
  else s.schedule .seekEnd s.config.delays.seekEnd

/-- The dispatch of a Type I command (R151, R180): `part` is the command's own part of R181 to R185. -/
def State.dispatchTypeI (s : State) (part : State → State) : State :=
  let s := (s.dispatch .seek).viewTypeI
  State.startMotion (part { s with phase := .seeking, headEngaged := s.flagH })

/-- R181: target track 0, forward step vector. -/
def restorePart (s : State) : State := { s with seekTarget := 0, stepVector := .inward }

/-- R182: the target is DATA clamped; the vector is the sign of the move, kept when there is none. -/
def seekPart (s : State) : State :=
  { s with
    seekTarget := s.seekOperand
    stepVector :=
      if s.physicalTrack < s.seekOperand then .inward
      else if s.seekOperand < s.physicalTrack then .outward
      else s.stepVector }

/-- R183 to R185: one track along a direction, clamped. -/
def stepPart (d : Direction) (s : State) : State :=
  { s with stepVector := d, seekTarget := clampTrack (s.physicalTrack + d.delta) s.config.maxTrack }

/-- RESTORE (R181). -/
def execRestore (h v : Bool) (r : BitVec 2) (s : State) : Host.Outcome State Fault Refusal :=
  acceptCommand (.restore h v r) (fun s => s.dispatchTypeI restorePart) s

/-- SEEK (R182). -/
def execSeek (h v : Bool) (r : BitVec 2) (s : State) : Host.Outcome State Fault Refusal :=
  acceptCommand (.seek h v r) (fun s => s.dispatchTypeI seekPart) s

/-- STEP (R183): the last stored vector. -/
def execStep (u h v : Bool) (r : BitVec 2) (s : State) : Host.Outcome State Fault Refusal :=
  acceptCommand (.step u h v r) (fun s => s.dispatchTypeI (stepPart s.stepVector)) s

/-- STEP_IN (R184). -/
def execStepIn (u h v : Bool) (r : BitVec 2) (s : State) : Host.Outcome State Fault Refusal :=
  acceptCommand (.stepIn u h v r) (fun s => s.dispatchTypeI (stepPart .inward)) s

/-- STEP_OUT (R185). -/
def execStepOut (u h v : Bool) (r : BitVec 2) (s : State) : Host.Outcome State Fault Refusal :=
  acceptCommand (.stepOut u h v r) (fun s => s.dispatchTypeI (stepPart .outward)) s

/-- The head one track nearer the target, and TRACK with it when the Step family's u flag asks for it (R186). -/
def State.moveOneTrack (s : State) : State :=
  let d := signToward s.physicalTrack s.seekTarget
  { s with
    physicalTrack := (s.physicalTrack + d).toNat
    track :=
      if isStepFamily (decode s.command) && s.flagU then
        BitVec.ofNat 8 (clampTrack (s.track.toNat + d) s.config.maxTrack)
      else s.track }

/-- The STEP_SEEK event (R186). -/
def onStepSeek (s : State) : State := s.moveOneTrack.startMotion

/-- `verify()` (R188): whether the id under the head carries TRACK, and the cursor past it. -/
def State.verify (s : State) : State × Bool :=
  match s.unit.geometry s.physicalTrack with
  | none => (s, false)
  | some g =>
    let p := s.rotationCursor % g.sectors
    ({ s with rotationCursor := (p + 1) % g.sectors },
      match s.unit.sectorId s.physicalTrack s.side p with
      | none => false
      | some id => id.trk == s.track.toNat)

/-- What the arrival does for the command that arrived (R187): Restore clears the error bits, sets TRACK, HEAD-ENGAGED,
INDEX and the index counter; Seek sets TRACK. -/
def State.arrive (s : State) : State :=
  match decode s.command with
  | .restore _ _ _ =>
    { s with
      status := setBit (setBit (setBit s.status bitSeekOrRecord false) bitCrcErr false) bitIndexOrDrq true
      track := 0
      headEngaged := true
      indexCtr := 0 }
  | .seek _ _ _ => { s with track := BitVec.ofNat 8 s.seekTarget }
  | _ => s

/-- The SEEK_END event (R187). -/
def onSeekEnd (s : State) : State :=
  let s := s.arrive
  let s := { s with
    status := setBit s.status bitTrack0OrLost (s.physicalTrack == 0)
    settlePending := true }
  if s.flagV then
    let r := s.verify
    if r.2 = false then r.1.abort [.seekErr] else r.1.complete
  else s.complete

end Sys2Proof.Machine
end

