-- ==== Sys2Proof/Machine/Crc.lean ====
section
/-! DEFINITION. The CRC16/CCITT accumulator (spec/47_crc16.md R310 to R315). -/

namespace Sys2Proof.Machine

/-- One round of R311: shift left by one; if a 1 left bit 15, XOR with 0x1021. -/
def crcRound (c : Word16) : Word16 := if c.getLsbD 15 then (c <<< 1) ^^^ 0x1021#16 else c <<< 1

/-- `n` rounds. -/
def crcRounds : Nat → Word16 → Word16
  | 0, c => c
  | n + 1, c => crcRounds n (crcRound c)

/-- `compute(byte)` (R311): XOR the byte into the high 8 bits, then 8 rounds. -/
def crcStep (c : Word16) (b : Byte) : Word16 := crcRounds 8 (c ^^^ (b.setWidth 16 <<< 8))

/-- The seed (R310). -/
def crcSeed : Word16 := 0xFFFF

/-- `crc16(bytes)` (R312). -/
def crc16 (bytes : List Byte) : Word16 := bytes.foldl crcStep crcSeed

/-- `c[15:8]` (R314). -/
def crcHigh (c : Word16) : Byte := c.extractLsb' 8 8

/-- `c[7:0]` (R314). -/
def crcLow (c : Word16) : Byte := c.extractLsb' 0 8

/-- A CRC as it is sent: high byte first (R75, R314). -/
def crcBytes (c : Word16) : List Byte := [crcHigh c, crcLow c]

/-- `crc_check(d, hi, lo)` (R315). -/
def crcCheck (d : List Byte) (hi lo : Byte) : Bool := crc16 (d ++ [hi, lo]) == 0

/-- `crc_init()` (R310). -/
def State.crcInit (s : State) : State := { s with crcAcc := crcSeed }

/-- `crc_feed(b)` (R311). -/
def State.crcFeed (s : State) (b : Byte) : State := { s with crcAcc := crcStep s.crcAcc b }

end Sys2Proof.Machine
end

