-- ==== Sys2Proof/Machine/Transfer.lean ====
section
/-! DEFINITION. The byte-streaming transfer unit (spec/46_transfer.md R290 to R299) and the ends of record it calls
(R216, R217, R243, R246, R249). -/

namespace Sys2Proof.Machine

/-- End of a read record of Type II (R216): the stored CRC, where the medium has one, against `crc_acc`. -/
def endReadRecord (s : State) : State :=
  let s := s.cancel .dataLoss
  match s.unit.readStoredCrc s.recTrack s.recSide s.recSector with
  | some stored =>
    if s.config.ignoreCrc = false ∧ stored ≠ s.crcAcc then s.abort [.crcErr]
    else if s.cmdType = .readMulti then
      State.schedule { s with phase := .searching } .multi1 s.config.delays.multi1
    else s.complete
  | none =>
    if s.cmdType = .readMulti then
      State.schedule { s with phase := .searching } .multi1 s.config.delays.multi1
    else s.complete

/-- `write_bytes` on the selected unit (R64): the state after it, and whether it answered `ok`. One draw is taken for
the free values a failure leaves. -/
def State.memWrite (s : State) (off : Nat) (bytes : List Byte) : State × Bool :=
  let r := s.unit.writeBytes s.draws off bytes
  ({ s.setUnit r.1 with draws := s.draws + 1 }, r.2)

/-- The metadata a committed record gets (R217): its generated CRC and the a0 tag. -/
def State.recordMetadata (s : State) : State :=
  s.setUnit ((s.unit.writeStoredCrc s.recTrack s.recSide s.recSector s.crcAcc).markDeleted
    s.recTrack s.recSide s.recSector s.flagA0)

/-- End of a write record of Type II (R217): commit, then CRC and deleted mark, then complete or continue. -/
def endWriteRecord (s : State) : State :=
  let r := (s.cancel .dataLoss).memWrite s.recOffset s.xferBuf
  if r.2 = false then r.1.abort [.writeFault]
  else
    let s := r.1.recordMetadata
    if s.cmdType = .writeMulti then
      State.schedule { s with phase := .searching } .multi1 s.config.delays.multi1
    else s.complete

/-- End of a Read Address record (R243) or of a Read Track image (R246). -/
def endReadImage (s : State) : State := (s.cancel .dataLoss).complete

/-- `make_track` on the selected unit (R65); one draw is taken for the free values it may leave. -/
def State.formatTrack (s : State) (t : Nat) (side : Bool) : State :=
  { s.setUnit (s.unit.makeTrack s.draws t side) with draws := s.draws + 1 }

/-- End of a Write Track image (R249): `make_track`, then the commit. -/
def endWriteTrack (s : State) : State :=
  let r := ((s.cancel .dataLoss).formatTrack s.recTrack s.recSide).memWrite s.recOffset s.xferBuf
  if r.2 = false then r.1.abort [.writeFault] else r.1.complete

/-- `end_of_record()` (R295). Only the seven transfer tags open sessions, so the other three are never met. -/
def endOfRecord (s : State) : State :=
  match s.cmdType with
  | .readSector => endReadRecord s
  | .readMulti => endReadRecord s
  | .writeSector => endWriteRecord s
  | .writeMulti => endWriteRecord s
  | .readAddress => endReadImage s
  | .readTrack => endReadImage s
  | .writeTrack => endWriteTrack s
  | .idle => s
  | .seek => s
  | .forceInterrupt => s

/-- The fields every session starts with (R291, R292): the record's address, its length, position 0, a fresh CRC. -/
def State.openSession (s : State) (dir : XferDir) (t : Nat) (side : Bool) (k : Byte) (off : Nat)
    (buf : List Byte) (len : Nat) (crcOn : Bool) : State :=
  State.crcInit { s with
    recTrack := t
    recSide := side
    recSector := k
    recOffset := off
    xferBuf := buf
    xferLen := len
    xferPos := 0
    xferCrcOn := crcOn
    xferDir := dir }

/-- `open_read` (R291): the first byte is ready at once and the watchdog is armed; an empty record ends at once. -/
def openRead (t : Nat) (side : Bool) (k : Byte) (off : Nat) (bytes : List Byte) (crcOn : Bool) (s : State) : State :=
  let s := s.openSession .read t side k off bytes bytes.length crcOn
  match bytes with
  | [] => endOfRecord { s with xferDir := .none }
  | b :: _ => State.schedule { s with data := b, drq := true } .dataLoss s.config.delays.dataLoss

/-- `open_write` (R292): a byte must be supplied and the watchdog is armed; an empty record ends at once. -/
def openWrite (t : Nat) (side : Bool) (k : Byte) (off : Nat) (len : Nat) (crcOn : Bool) (s : State) : State :=
  let s := s.openSession .write t side k off [] len crcOn
  if len = 0 then endOfRecord { s with xferDir := .none }
  else State.schedule { s with drq := true } .dataLoss s.config.delays.dataLoss

/-- Feed a streamed byte to the CRC engine where the session is CRC-bearing (R293, R294). -/
def State.streamCrc (s : State) (b : Byte) : State := if s.xferCrcOn then s.crcFeed b else s

/-- The last byte of a record (R293, R294): DRQ falls, the session closes, the end handler runs. -/
def closeRecord (s : State) : State := endOfRecord { s with drq := false, xferDir := .none }

/-- The byte a read session serves next, `xfer_buf[xfer_pos]` (R293); DATA past the end, where no open session ever
stands. -/
def State.nextByte (s : State) : Byte := s.xferBuf.getD s.xferPos s.data

/-- The effect of `transfer_read_byte()` (R293); the value it returns is `nextByte` of the state before. -/
def transferReadByte (s : State) : State :=
  let s := State.streamCrc { s with xferPos := s.xferPos + 1 } s.nextByte
  if s.xferPos = s.xferLen then closeRecord s else { s with data := s.nextByte }

/-- `transfer_write_byte(v)` (R294). -/
def transferWriteByte (v : Byte) (s : State) : State :=
  let s := State.streamCrc { s with data := v, xferBuf := s.xferBuf ++ [v], xferPos := s.xferPos + 1 } v
  if s.xferPos = s.xferLen then closeRecord s else s

/-- The DATA_LOSS event (R298). -/
def onDataLoss (s : State) : State := s.abort [.lostData]

end Sys2Proof.Machine
end

