-- ==== Sys2Proof/Machine/TypeII.lean ====
section
/-! DEFINITION. The Type II commands (spec/43_type2.md R210 to R219): READ_SECTOR, READ_MULTIPLE, WRITE_SECTOR,
WRITE_MULTIPLE, their search and the multi-sector continuation. -/

namespace Sys2Proof.Machine

/-- READ_SECTOR (R211). -/
def execReadSector (sd e c x0 : Bool) (s : State) : Host.Outcome State Fault Refusal :=
  acceptCommand (.readSector sd e c x0) (fun s => s.dispatchTransfer .readSector) s

/-- READ_MULTIPLE (R212). -/
def execReadMultiple (sd e c x0 : Bool) (s : State) : Host.Outcome State Fault Refusal :=
  acceptCommand (.readMultiple sd e c x0) (fun s => s.dispatchTransfer .readMulti) s

/-- WRITE_SECTOR (R213). -/
def execWriteSector (sd e c a0 : Bool) (s : State) : Host.Outcome State Fault Refusal :=
  acceptCommand (.writeSector sd e c a0) (fun s => s.dispatchTransfer .writeSector) s

/-- WRITE_MULTIPLE (R214). -/
def execWriteMultiple (sd e c a0 : Bool) (s : State) : Host.Outcome State Fault Refusal :=
  acceptCommand (.writeMultiple sd e c a0) (fun s => s.dispatchTransfer .writeMulti) s

/-- The record of a successful search (R215): its session opens, for reading with the store's bytes. One draw is
taken for a read that runs past the end of the store. -/
def openSector (s : State) : State :=
  let t := s.physicalTrack
  let off := s.unit.locate t s.side s.sector.toNat
  let len := s.unit.sectorSize t
  if s.cmdType.isRead then
    openRead t s.side s.sector off (s.unit.readBytes s.draws off len) true
      { s with phase := .transferring, draws := s.draws + 1 }
  else openWrite t s.side s.sector off len true { s with phase := .transferring }

/-- `type2_search()` (R215): the SEARCH event of the Type II commands, and the MULTI_2 event (R219). -/
def typeIISearch (s : State) : State :=
  match s.unit.geometry s.physicalTrack with
  | none => s.abort [.recordNotFound]
  | some g =>
    match s.unit.search s.physicalTrack s.side s.rotationCursor s.sector s.flagC s.flagS with
    | none => s.abort [.recordNotFound]
    | some (p, _) => openSector { s with rotationCursor := (p + 1) % g.sectors }

/-- The sector count MULTI_1 compares with (R218): the track's; a free value where the selected medium has no such
track any more, for which the spec states none. -/
def State.sectorCount (s : State) : Nat :=
  match s.unit.geometry s.physicalTrack with
  | none => Config.freeSectorCount s.draws
  | some g => g.sectors

/-- The MULTI_1 event (R218): SECTOR + 1, then the end of the track or the next search. One draw is taken for the
count. -/
def onMulti1 (s : State) : State :=
  let n := s.sectorCount
  let s := { s with sector := s.sector + 1, draws := s.draws + 1 }
  if n ≤ s.sector.toNat then s.complete else s.schedule .multi2 s.config.delays.multi2

end Sys2Proof.Machine
end

