-- ==== Sys2Proof/Machine/TypeIII.lean ====
section
/-! DEFINITION. The Type III commands (spec/44_type3.md R240 to R250): READ_ADDRESS, READ_TRACK, WRITE_TRACK, and their
SEARCH events. -/

namespace Sys2Proof.Machine

/-- READ_ADDRESS (R241). -/
def execReadAddress (x3 e x1 x0 : Bool) (s : State) : Host.Outcome State Fault Refusal :=
  acceptCommand (.readAddress x3 e x1 x0) (fun s => s.dispatchTransfer .readAddress) s

/-- READ_TRACK (R244). -/
def execReadTrack (x3 e x1 x0 : Bool) (s : State) : Host.Outcome State Fault Refusal :=
  acceptCommand (.readTrack x3 e x1 x0) (fun s => s.dispatchTransfer .readTrack) s

/-- WRITE_TRACK (R247). -/
def execWriteTrack (x3 e x1 x0 : Bool) (s : State) : Host.Outcome State Fault Refusal :=
  acceptCommand (.writeTrack x3 e x1 x0) (fun s => s.dispatchTransfer .writeTrack) s

/-- The four bytes of an id record (R242, R245). -/
def idBytes (id : SectorId) : List Byte := [BitVec.ofNat 8 id.trk, id.sd, id.sec, id.code]

/-- An id record with its CRC: six bytes, the CRC high byte first (R242). -/
def idRecord (id : SectorId) : List Byte := idBytes id ++ crcBytes (crc16 (idBytes id))

/-- The SEARCH event of READ_ADDRESS (R242). -/
def readAddressSearch (s : State) : State :=
  match s.unit.geometry s.physicalTrack with
  | none => s.abort [.recordNotFound]
  | some g =>
    let p := s.rotationCursor % g.sectors
    let found := s.unit.sectorId s.physicalTrack s.side p
    let s := { s with rotationCursor := (p + 1) % g.sectors }
    match found with
    | none => s.abort [.recordNotFound]
    | some id => openRead s.physicalTrack s.side id.sec 0 (idRecord id) false { s with phase := .transferring }

/-- The start of the track image (R245). -/
def imageStart (l : RtLayout) : List Byte :=
  List.replicate l.gap4aLen l.gapByte ++ List.replicate l.syncLen 0x00 ++ l.iam ++ List.replicate l.gap1Len l.gapByte

/-- What one sector adds to the track image (R245). -/
def imageSector (l : RtLayout) (id : SectorId) (data : List Byte) : List Byte :=
  List.replicate l.syncLen 0x00 ++ l.idam ++ idRecord id ++ List.replicate l.gap2Len l.gapByte ++
  List.replicate l.syncLen 0x00 ++ l.dam ++ data ++ crcBytes (crc16 data) ++ List.replicate l.gap3Len l.gapByte

/-- The part of the image of position `p` (R245): nothing where the position has no id, else the sector, its data read
from the store with the draw of the position. -/
def imageAt (u : MediaUnit) (l : RtLayout) (draw t : Nat) (side : Bool) (size p : Nat) : List Byte :=
  match u.sectorId t side p with
  | none => []
  | some id => imageSector l id (u.readBytes (draw + p) (u.locate t side id.sec.toNat) size)

/-- The synthetic track image (R245): the start, then every position in physical order. -/
def trackImage (u : MediaUnit) (l : RtLayout) (draw t : Nat) (side : Bool) (g : Zone) : List Byte :=
  imageStart l ++ (List.range g.sectors).flatMap (imageAt u l draw t side g.size)

/-- The SEARCH event of READ_TRACK (R245). One draw a position is taken for reads past the end of the store. -/
def readTrackSearch (s : State) : State :=
  match s.unit.geometry s.physicalTrack with
  | none => s.abort [.recordNotFound]
  | some g =>
    openRead s.physicalTrack s.side 0 0
      (trackImage s.unit s.config.rtLayout s.draws s.physicalTrack s.side g) false
      { s with rotationCursor := 0, phase := .readingTrack, draws := s.draws + g.sectors }

/-- The SEARCH event of WRITE_TRACK (R248). -/
def writeTrackSearch (s : State) : State :=
  match s.unit.geometry s.physicalTrack with
  | none => s.abort [.writeFault]
  | some _ =>
    openWrite s.physicalTrack s.side 0 (s.unit.locate s.physicalTrack s.side 0)
      (s.writeTrackLength s.physicalTrack) false { s with phase := .writingTrack }

end Sys2Proof.Machine
end

