-- ==== Sys2Proof/Machine/TypeIV.lean ====
section
/-! DEFINITION. The Type IV command (spec/45_type4.md R270 to R275): FORCE_INTERRUPT and its re-arm event. -/

namespace Sys2Proof.Machine

/-- `latch_update` (R271): XOR when idle or in a Type IV cycle, replaced when a command is in progress. -/
def latchUpdate (prev : CmdType) (latch cond : BitVec 4) : BitVec 4 :=
  match prev with
  | .idle => latch ^^^ cond
  | .forceInterrupt => latch ^^^ cond
  | _ => cond

/-- `fi_signal()` (R272, R273): IRQ at once with I3; the re-arm timer with another condition; neither with none. -/
def State.fiSignal (s : State) : State :=
  if s.intLatch.getLsbD 3 then { s with irq := true }
  else if s.intLatch ≠ 0 then State.schedule { s with fiReadyRef := s.ready } .fiRearm s.config.delays.fi
  else s

/-- `force_interrupt()` (R270). -/
def State.forceInterrupt (s : State) : State :=
  State.fiSignal
    { s.cancelAll with
      intLatch := latchUpdate s.cmdType s.intLatch s.conditions
      drq := false
      xferDir := .none
      statusView := if s.cmdType = .idle then .typeI else s.statusView
      cmdType := .forceInterrupt
      phase := .forceInterrupt
      status := setBit s.status bitBusy false }

/-- FORCE_INTERRUPT (R270), accepted while BUSY too (R150). -/
def execForceInterrupt (cond : BitVec 4) (s : State) : Host.Outcome State Fault Refusal :=
  acceptCommand (.forceInterrupt cond) State.forceInterrupt s

/-- The qualifying conditions of R274: an index pulse, not-ready to ready, ready to not-ready. -/
def fiCondition (latch : BitVec 4) (before after : Bool) : Bool :=
  latch.getLsbD 2 || (latch.getLsbD 0 && !before && after) || (latch.getLsbD 1 && before && !after)

/-- The FI_REARM event (R274). -/
def onFiRearm (s : State) : State :=
  if fiCondition s.intLatch s.fiReadyRef s.ready then { s with irq := true }
  else State.schedule { s with fiReadyRef := s.ready } .fiRearm s.config.delays.fi

end Sys2Proof.Machine
end

