-- ==== Sys2Proof/Machine/Dispatch.lean ====
section
/-! DEFINITION. The dispatch table (spec/41_dispatch.md R152): a command byte written to port 0, by its command. -/

namespace Sys2Proof.Machine

/-- The effect of writing command `i` to port 0 (R150, R152). -/
def exec (i : Instr) (s : State) : Host.Outcome State Fault Refusal :=
  match i with
  | .restore h v r => Sys2Proof.Machine.execRestore h v r s
  | .seek h v r => Sys2Proof.Machine.execSeek h v r s
  | .step u h v r => Sys2Proof.Machine.execStep u h v r s
  | .stepIn u h v r => Sys2Proof.Machine.execStepIn u h v r s
  | .stepOut u h v r => Sys2Proof.Machine.execStepOut u h v r s
  | .readSector sd e c x0 => Sys2Proof.Machine.execReadSector sd e c x0 s
  | .readMultiple sd e c x0 => Sys2Proof.Machine.execReadMultiple sd e c x0 s
  | .writeSector sd e c a0 => Sys2Proof.Machine.execWriteSector sd e c a0 s
  | .writeMultiple sd e c a0 => Sys2Proof.Machine.execWriteMultiple sd e c a0 s
  | .readAddress x3 e x1 x0 => Sys2Proof.Machine.execReadAddress x3 e x1 x0 s
  | .forceInterrupt cond => Sys2Proof.Machine.execForceInterrupt cond s
  | .readTrack x3 e x1 x0 => Sys2Proof.Machine.execReadTrack x3 e x1 x0 s
  | .writeTrack x3 e x1 x0 => Sys2Proof.Machine.execWriteTrack x3 e x1 x0 s

end Sys2Proof.Machine
end

