-- ==== Sys2Proof/Machine/Events.lean ====
section
/-! DEFINITION. The event handlers and the timer-firing stimulus (spec/48_scheduler.md R335 to R338). -/

namespace Sys2Proof.Machine

/-- The SEARCH event (R154): by `cmd_type`. No other tag can own it. -/
def onSearch (s : State) : State :=
  match s.cmdType with
  | .readSector => typeIISearch s
  | .readMulti => typeIISearch s
  | .writeSector => typeIISearch s
  | .writeMulti => typeIISearch s
  | .readAddress => readAddressSearch s
  | .readTrack => readTrackSearch s
  | .writeTrack => writeTrackSearch s
  | .idle => s
  | .seek => s
  | .forceInterrupt => s

/-- The MULTI_2 event (R219). -/
def onMulti2 (s : State) : State := typeIISearch s

/-- The handler table (R337). -/
def handler : EventKind → State → State
  | .stepSeek => onStepSeek
  | .seekEnd => onSeekEnd
  | .search => onSearch
  | .fiRearm => onFiRearm
  | .multi1 => onMulti1
  | .multi2 => onMulti2
  | .dataLoss => onDataLoss

/-- The event `k`, taken from its slot at its time: run, or discarded as stale (R335, R336). -/
def fireEvent (k : EventKind) (x : Slot) (s : State) : State :=
  let s := { s with now := x.fireTime, slots := s.slots.put k none }
  if x.owner = s.cmdType then handler k s else s

/-- FIRE (R335): the earliest pending event. With none pending it is not enabled; the state is then left as it is
(DESIGN CHOICE, notes/assumptions/3.md, safe). -/
def fire (s : State) : State :=
  match s.slots.next with
  | none => s
  | some (k, x) => fireEvent k x s

end Sys2Proof.Machine
end

