-- ==== Sys2Proof/Machine/Ports.lean ====
section
/-! DEFINITION. The register/bus interface but for the command write (spec/40_bus_interface.md R131 to R138). -/

namespace Sys2Proof.Machine

/-- The first part of a status read (R131): the transient bits, by view and readiness. -/
def State.recompute (s : State) : State :=
  let s := s.setStatusBit bitNotReady (!s.ready)
  match s.statusView with
  | .typeI =>
    if s.ready then
      { s with
        status := recomputeTypeI s.status s.unit.writeProtected s.headEngaged (s.physicalTrack == 0) (s.indexCtr == 0)
        indexCtr := (s.indexCtr + 1) % s.config.indexPeriod }
    else s
  | .typeIIandIII =>
    let s :=
      if s.ready then s.setStatusBit bitWriteProtect (s.viewWrite && s.unit.writeProtected) else s
    s.setStatusBit bitIndexOrDrq s.drq

/-- `RD 0` (R131, R132): recompute, clear IRQ, return STATUS. -/
def readStatus (s : State) : State :=
  let s := s.recompute.acknowledge
  { s with readValue := some s.status }

/-- Whether a Track or Sector write is turned away (R133, R134): BUSY with a Type II/III command under REJECT. -/
def State.pokeRejected (s : State) : Bool :=
  s.busy && s.cmdType.isTransfer && (s.config.pokePolicy == .reject)

/-- `WR 1, v` (R133). -/
def writeTrackPort (v : Byte) (s : State) : State := if s.pokeRejected then s else { s with track := v }

/-- `WR 2, v` (R134). -/
def writeSectorPort (v : Byte) (s : State) : State := if s.pokeRejected then s else { s with sector := v }

/-- `WR 3, v` (R136): feeds a write session, is discarded under a busy Type II/III command otherwise, else sets
DATA. -/
def writeDataPort (v : Byte) (s : State) : State :=
  if s.cmdType.isWrite && s.drq then transferWriteByte v s
  else if s.busy && s.cmdType.isTransfer then s
  else { s with data := v }

/-- `RD 1` (R135). -/
def readTrackPort (s : State) : State := { s with readValue := some s.track }

/-- `RD 2` (R135). -/
def readSectorPort (s : State) : State := { s with readValue := some s.sector }

/-- `RD 3` (R137): drains a read session, else returns DATA. -/
def readDataPort (s : State) : State :=
  if s.cmdType.isRead && s.drq then { transferReadByte s with readValue := some s.nextByte }
  else { s with readValue := some s.data }

/-- A port read (R90). -/
def readPort : Port → State → State
  | .control => readStatus
  | .track => readTrackPort
  | .sector => readSectorPort
  | .data => readDataPort

/-- `SET` (R138): the inputs, nothing else. -/
def setInputs (drive : Nat) (side motor : Bool) (s : State) : State :=
  { s with driveSelect := drive, side := side, motorOn := motor }

end Sys2Proof.Machine
end

