-- ==== Sys2Proof/Machine/Stimuli.lean ====
section
/-! DEFINITION. One stimulus handled to completion (spec/00_scope.md R11, spec/20_memory.md R80). -/

namespace Sys2Proof.Machine

/-- A stimulus the spec has (R11, R38): it names a drive that exists, and a MediaUnit within the contract. -/
def Stimulus.wf (numDrives : Nat) : Stimulus → Bool
  | .write _ _ => true
  | .read _ => true
  | .set drive _ _ => decide (drive < numDrives)
  | .fire => true
  | .reset => true
  | .media drive unit => decide (drive < numDrives) && unit.wf

/-- A port write (R90): port 0 decodes and runs a command (R130). -/
def writePort (p : Port) (v : Byte) (s : State) : Host.Outcome State Fault Refusal :=
  match p with
  | .control => exec (decode v) s
  | .track => .next (writeTrackPort v s)
  | .sector => .next (writeSectorPort v s)
  | .data => .next (writeDataPort v s)

/-- One stimulus (R11). -/
def takeStimulus (x : Stimulus) (s : State) : Host.Outcome State Fault Refusal :=
  match x with
  | .write p v => writePort p v s
  | .read p => .next (readPort p s)
  | .set drive side motor =>
    if drive < s.media.length then .next (setInputs drive side motor s) else .fault .noSuchDrive
  | .fire => .next (fire s)
  | .reset => .next s.resetBlock
  | .media drive unit =>
    if s.media.length ≤ drive then .fault .noSuchDrive
    else if unit.wf then .next { s with media := s.media.set drive unit }
    else .fault .badMediaUnit

/-- One step: the oldest stimulus issued; when the outside world has issued none, the timeline, so that a pending event
is not starved (R340). With no event pending either, nothing changes (R413). -/
def stepOnce (s : State) : Host.Outcome State Fault Refusal :=
  match s.host with
  | [] => .next (fire s)
  | x :: rest => takeStimulus x { s with host := rest }

/-- Place a command byte where the next step takes it: a write of it to port 0, ahead of every other stimulus. -/
def placeCommand (s : State) (b : Byte) : State := { s with host := .write .control b :: s.host }

end Sys2Proof.Machine
end

