-- ==== Sys2Proof/Machine/Step.lean ====
section
/-! DEFINITION. The step: one stimulus (spec/00_scope.md R11). The block fetches nothing (R82); a command comes as a
byte written to port 0. -/

namespace Sys2Proof.Machine

/-- One step of the machine (R11, R80). -/
def step (s : State) : Host.Outcome State Fault Refusal := stepOnce s

/-- The state whose next step takes the command byte of `w`: a write of it to port 0 stands first among the
stimuli. -/
def State.withFetchWord (s : State) (nbits w : Nat) : State := placeCommand s (tableByte nbits w)

end Sys2Proof.Machine
end

