-- ==== Sys2Proof/Safety.lean ====
section
/-! DEFINITION. What counts as a safe run, in the terms the claims use: the invariant of the states a run reaches, and
the relations between two states that the isolation claims compare. -/

namespace Sys2Proof.Machine

/-- Which phases go with which `cmd_type` (R28, R162). -/
def CmdType.fits : CmdType → Phase → Bool
  | .idle, .idle => true
  | .seek, .seeking => true
  | .readSector, .settling => true
  | .readSector, .transferring => true
  | .readMulti, .settling => true
  | .readMulti, .searching => true
  | .readMulti, .transferring => true
  | .writeSector, .settling => true
  | .writeSector, .transferring => true
  | .writeMulti, .settling => true
  | .writeMulti, .searching => true
  | .writeMulti, .transferring => true
  | .readAddress, .settling => true
  | .readAddress, .transferring => true
  | .readTrack, .settling => true
  | .readTrack, .readingTrack => true
  | .writeTrack, .settling => true
  | .writeTrack, .writingTrack => true
  | .forceInterrupt, .forceInterrupt => true
  | _, _ => false

/-- The phases in which a record streams (R28). -/
def Phase.streams : Phase → Bool
  | .transferring => true
  | .readingTrack => true
  | .writingTrack => true
  | _ => false

/-- The event a phase waits for (R162). -/
def Phase.awaits : Phase → EventKind → Bool
  | .seeking, .stepSeek => true
  | .seeking, .seekEnd => true
  | .settling, .search => true
  | .searching, .multi1 => true
  | .searching, .multi2 => true
  | .transferring, .dataLoss => true
  | .readingTrack, .dataLoss => true
  | .writingTrack, .dataLoss => true
  | .forceInterrupt, .fiRearm => true
  | _, _ => false

/-- The phases in which no event need be pending (R413): idle, and a Type IV cycle whose timer is not armed. -/
def Phase.mayBeQuiet : Phase → Bool
  | .idle => true
  | .forceInterrupt => true
  | _ => false

/-- R339 and R336: nothing pending where the phase waits for nothing, or exactly one event, of a kind the phase waits
for, tagged with the command in force, not in the past. -/
def State.PendingOk (s : State) : Prop :=
  (s.slots = Slots.empty ∧ s.phase.mayBeQuiet = true) ∨
  ∃ k x, s.slots = Slots.only k x ∧ s.phase.awaits k = true ∧ x.owner = s.cmdType ∧ s.now ≤ x.fireTime

/-- R291 to R294: what holds of an open session. -/
def State.SessionOk (s : State) : Prop :=
  match s.xferDir with
  | .none => True
  | .read =>
    s.cmdType.isRead = true ∧ s.xferPos < s.xferLen ∧ s.xferBuf.length = s.xferLen ∧
      s.xferBuf[s.xferPos]? = some s.data
  | .write => s.cmdType.isWrite = true ∧ s.xferPos < s.xferLen ∧ s.xferBuf.length = s.xferPos

/-- R311, R313: the accumulator of an open session covers exactly the bytes streamed so far, and stays at the seed in
a session that is not CRC-bearing. -/
def State.CrcOk (s : State) : Prop :=
  s.xferDir ≠ .none →
    s.crcAcc = if s.xferCrcOn = true then crc16 (s.xferBuf.take s.xferPos) else 0xFFFF

/-- The invariant of the states a run reaches. -/
structure State.Inv (s : State) : Prop where
  /-- The parameters are within R6. -/
  config : s.config.wf = true
  /-- `drive_select` names a unit (R38). -/
  drive : s.driveSelect < s.media.length
  /-- Every unit meets the contract (R62), its store and its metadata in canonical form. -/
  media : ∀ u ∈ s.media, u.wf = true
  /-- The BUSY invariant of R24. -/
  busy : s.busy = s.cmdType.isBusy
  /-- The phase goes with the command (R28). -/
  phase : s.cmdType.fits s.phase = true
  /-- The running command is the one COMMAND holds (R22, R103). -/
  tag : s.cmdType ≠ .idle → s.cmdType = tagOf (decode s.command)
  /-- A busy command shows its own view (R29, R103). -/
  view : s.cmdType.isBusy = true →
    s.statusView = if s.cmdType = .seek then .typeI else .typeIIandIII
  /-- A Type II/III command's `view_write` is its own (R103). -/
  viewWrite : s.cmdType.isTransfer = true → s.viewWrite = s.cmdType.isWrite
  /-- The head is on a track it can reach (R30). -/
  head : s.physicalTrack ≤ s.config.maxTrack
  /-- The target is a track it can reach (R37). -/
  target : s.seekTarget ≤ s.config.maxTrack
  /-- The index counter is within its period (R35). -/
  index : s.indexCtr < s.config.indexPeriod
  /-- DRQ is 1 exactly while a session is open (R290, R296). -/
  drq : (s.drq = true) ↔ s.xferDir ≠ .none
  /-- A session is open exactly in the streaming phases (R28, R290). -/
  streams : s.phase.streams = true ↔ s.xferDir ≠ .none
  /-- The open session's position, length and buffer agree (R291 to R294). -/
  session : s.SessionOk
  /-- The accumulator covers the bytes streamed (R311). -/
  crc : s.CrcOk
  /-- At most one event is pending, the right one, and not stale (R336, R339). -/
  pending : s.PendingOk
  /-- A step event is pending only while the head is off its target (R186). -/
  stepping : s.slots.stepSeek ≠ none → s.physicalTrack ≠ s.seekTarget
  /-- The arrival is pending only once the head is on its target (R186). -/
  arriving : s.slots.seekEnd ≠ none → s.physicalTrack = s.seekTarget

/-- Nothing can change but by a host access, an input change or reset (R413). -/
def State.quiescent (s : State) : Prop := s.busy = false ∧ s.slots = Slots.empty

/-- A slot without its fire time. -/
def Slot.timeless (x : Slot) : Slot := { x with fireTime := 0 }

/-- The slots without their fire times. -/
def Slots.timeless (q : Slots) : Slots :=
  ⟨q.stepSeek.map Slot.timeless, q.seekEnd.map Slot.timeless, q.search.map Slot.timeless,
   q.fiRearm.map Slot.timeless, q.multi1.map Slot.timeless, q.multi2.map Slot.timeless,
   q.dataLoss.map Slot.timeless⟩

/-- What is left of a state when time is taken out (R341): no clock, no fire times, no delays. -/
def State.timeless (s : State) : State :=
  { s with
    now := 0
    slots := s.slots.timeless
    config := { s.config with delays := ⟨0, 0, 0, 0, 0, 0, 0, 0, 0, 0, 0⟩ } }

/-- A command byte with the bits the block ignores cleared (R100): E in the Type II and III commands, bit 0 of the
reads, bits 3, 1 and 0 of Type III. -/
def significant (b : Byte) : Byte :=
  match decode b with
  | .restore _ _ _ => b
  | .seek _ _ _ => b
  | .step _ _ _ _ => b
  | .stepIn _ _ _ _ => b
  | .stepOut _ _ _ _ => b
  | .readSector _ _ _ _ => b &&& 0xFA
  | .readMultiple _ _ _ _ => b &&& 0xFA
  | .writeSector _ _ _ _ => b &&& 0xFB
  | .writeMultiple _ _ _ _ => b &&& 0xFB
  | .readAddress _ _ _ _ => b &&& 0xF0
  | .forceInterrupt _ => b
  | .readTrack _ _ _ _ => b &&& 0xF0
  | .writeTrack _ _ _ _ => b &&& 0xF0

/-- A stimulus with the ignored bits of a command byte cleared. -/
def Stimulus.significant : Stimulus → Stimulus
  | .write .control b => .write .control (Machine.significant b)
  | .write .track b => .write .track b
  | .write .sector b => .write .sector b
  | .write .data b => .write .data b
  | .read p => .read p
  | .set drive side motor => .set drive side motor
  | .fire => .fire
  | .reset => .reset
  | .media drive unit => .media drive unit

/-- What is left of a state when the ignored bits are cleared in COMMAND and in the command bytes still to come. -/
def State.significantBits (s : State) : State :=
  { s with command := significant s.command, host := s.host.map Stimulus.significant }

end Sys2Proof.Machine
end

