-- ==== Sys2Proof/Certificates/Slice0/Obligations.lean ====
section
/-! DEFINITION. The statements for the provers. Each docstring names the rule of spec/ it formalises, and the decision
D<n> of spec/92_eei_decisions.md where the spec marks the rule as its own decision. Next states are written out as
record updates: every field not named keeps its value, which is the frame. The fields `host`, `readValue` and `draws` in
them are the model's own (notes/assumptions/12.md): the rules speak of the value a read returns, `readValue` holds it.
A statement about a firing is written for the stimulus `fire`; EmptyQueueFiresTheSameEvent says that a step with no
stimulus left does the same. -/

open Sys2Proof Sys2Proof.Machine

/-! ### Terms the statements share -/

/-- `s` takes stimulus `x` in its next step. -/
def Takes (s : State) (x : Stimulus) : Prop := s.host.head? = some x

/-- `s` fires an event of kind `k` in its next step: by a `fire` stimulus, or because no stimulus is left. -/
def Fires (s : State) (k : EventKind) : Prop :=
  (s.host = [] ∨ Takes s .fire) ∧ ∃ x, s.slots.next = some (k, x)

/-- `s` with a command ended in its next step: idle, no event, no session, IRQ, BUSY clear on top of the byte `v`
(R160). -/
def ended (s : State) (v : Byte) : State :=
  { s with
    status := v &&& 0xFE
    drq := false
    xferDir := .none
    cmdType := .idle
    phase := .idle
    irq := true
    slots := Slots.empty }

/-- The state R151 and R180 describe after the dispatch of a Type I command with byte `b`. -/
def typeIStarted (s : State) (b : Byte) (h : Bool) (r : BitVec 2) (target : Nat) (dir : Direction) : State :=
  { s with
    command := b
    irq := false
    drq := false
    xferDir := .none
    status := if s.ready = true then 0x01 else 0x81
    cmdType := .seek
    statusView := .typeI
    phase := .seeking
    headEngaged := h
    stepVector := dir
    seekTarget := target
    slots :=
      if target = s.physicalTrack then Slots.only .seekEnd ⟨s.now + s.config.delays.seekEnd, .seek⟩
      else Slots.only .stepSeek ⟨s.now + s.config.delays.step r, .seek⟩ }

/-- The state R151 and R153 describe after a Type II/III command with byte `b` passed its checks. -/
def transferStarted (s : State) (b : Byte) (tag : CmdType) (write : Bool) : State :=
  { s with
    command := b
    irq := false
    drq := false
    xferDir := .none
    status := 0x01
    cmdType := tag
    statusView := .typeIIandIII
    viewWrite := write
    headEngaged := true
    settlePending := false
    phase := .settling
    slots := Slots.only .search
      ⟨s.now + (if s.settlePending = true then s.config.delays.settle else s.config.delays.search), tag⟩ }

/-- The state after a Type II/III command with byte `b` was aborted at issue with STATUS `v` (R151, R153, R161). -/
def transferAborted (s : State) (b v : Byte) (write : Bool) : State :=
  ended { s with command := b, statusView := .typeIIandIII, viewWrite := write } v

/-! ### Encoding -/

/-- Tier 3. No operand bit of a command is lost: what `encode` writes, `decode` reads back (R92 to R99). -/
def Obligations.DecodeOfEncodeIsTheInstruction : Prop :=
  ∀ i : Instr, i.wf = true → decode (encode i) = i

/-- Every byte is the encoding of the command it decodes to: no byte is illegal, none has two readings (R93, R100). -/
def Obligations.EncodeOfDecodeIsTheByte : Prop :=
  ∀ b : Byte, encode (decode b) = b

/-- R99 (decision D4): bits [7:4] select the row. -/
def Obligations.TopBitsSelectTheRow : Prop :=
  ∀ b : Byte, (decode b).mnemonic =
    match b.toNat / 16 with
    | 0x0 => "RESTORE"
    | 0x1 => "SEEK"
    | 0x2 => "STEP"
    | 0x3 => "STEP"
    | 0x4 => "STEP_IN"
    | 0x5 => "STEP_IN"
    | 0x6 => "STEP_OUT"
    | 0x7 => "STEP_OUT"
    | 0x8 => "READ_SECTOR"
    | 0x9 => "READ_MULTIPLE"
    | 0xA => "WRITE_SECTOR"
    | 0xB => "WRITE_MULTIPLE"
    | 0xC => "READ_ADDRESS"
    | 0xD => "FORCE_INTERRUPT"
    | 0xE => "READ_TRACK"
    | _ => "WRITE_TRACK"

/-- Words of spec/95_test_vectors.md L2-12, with the fields it lists. -/
def Obligations.WordsOfTheSpecDecode : Prop :=
  decode 0x00 = .restore false false 0 ∧
  decode 0x0F = .restore true true 3 ∧
  decode 0x1C = .seek true true 0 ∧
  decode 0x20 = .step false false false 0 ∧
  decode 0x3F = .step true true true 3 ∧
  decode 0x50 = .stepIn true false false 0 ∧
  decode 0x7B = .stepOut true true false 3 ∧
  decode 0x8A = .readSector true false true false ∧
  decode 0x90 = .readMultiple false false false false ∧
  decode 0xA1 = .writeSector false false false true ∧
  decode 0xB4 = .writeMultiple false true false false ∧
  decode 0xCF = .readAddress true true true true ∧
  decode 0xD4 = .forceInterrupt 4 ∧
  decode 0xE4 = .readTrack false true false false ∧
  decode 0xFF = .writeTrack true true true true

/-- The fields stand where the formats of R94, R96, R97 and R98 put them (decision D4). -/
def Obligations.FormatsPlaceTheFields : Prop :=
  ∀ b : Byte,
    (∀ h v r, decode b = .restore h v r ∨ decode b = .seek h v r →
      h = b.getLsbD 3 ∧ v = b.getLsbD 2 ∧ r = b.extractLsb' 0 2) ∧
    (∀ u h v r, decode b = .step u h v r ∨ decode b = .stepIn u h v r ∨ decode b = .stepOut u h v r →
      u = b.getLsbD 4 ∧ h = b.getLsbD 3 ∧ v = b.getLsbD 2 ∧ r = b.extractLsb' 0 2) ∧
    (∀ sd e c a, decode b = .readSector sd e c a ∨ decode b = .readMultiple sd e c a ∨
        decode b = .writeSector sd e c a ∨ decode b = .writeMultiple sd e c a →
      sd = b.getLsbD 3 ∧ e = b.getLsbD 2 ∧ c = b.getLsbD 1 ∧ a = b.getLsbD 0) ∧
    (∀ x3 e x1 x0, decode b = .readAddress x3 e x1 x0 ∨ decode b = .readTrack x3 e x1 x0 ∨
        decode b = .writeTrack x3 e x1 x0 →
      x3 = b.getLsbD 3 ∧ e = b.getLsbD 2 ∧ x1 = b.getLsbD 1 ∧ x0 = b.getLsbD 0) ∧
    (∀ cond, decode b = .forceInterrupt cond → cond = b.extractLsb' 0 4)

/-! ### Acceptance -/

/-- R130: a write of a byte to port 0 runs the command it decodes to, and so does a byte placed by `withFetchWord`. The
step adds nothing but that the stimulus is taken from the queue. -/
def Obligations.StepRunsTheDecodedCommand : Prop :=
  (∀ (s : State) (v : Byte) (rest : List Stimulus), s.host = .write .control v :: rest →
    step s = exec (decode v) { s with host := rest }) ∧
  (∀ (s : State) (w : Nat), step (s.withFetchWord 8 w) = exec (decode (BitVec.ofNat 8 w)) s)

/-- R403, R150 (decision D9): a command byte other than a Force Interrupt, written while BUSY, changes nothing. -/
def Obligations.CommandWhileBusyIsIgnored : Prop :=
  ∀ (i : Instr) (s : State), s.busy = true → (∀ cond, i ≠ .forceInterrupt cond) → exec i s = .next s

/-- R150, R22, R360: every command write completes; an accepted one leaves its byte in COMMAND, an ignored one (BUSY and
no Force Interrupt) leaves the whole state. -/
def Obligations.EveryCommandWriteCompletes : Prop :=
  ∀ (i : Instr) (s : State), ∃ t, exec i s = .next t ∧
    ((t = s ∧ s.busy = true ∧ ∀ cond, i ≠ .forceInterrupt cond) ∨
     (t.command = encode i ∧ (s.busy = false ∨ ∃ cond, i = .forceInterrupt cond)))

/-! ### Type I -/

/-- R180 with the per-command parts of R181 to R185 (decisions D15 to D18): from any state that is not BUSY, the five
Type I commands set the target and the direction and schedule the first step, or the arrival when no step is needed.
Everything else, the media with it, is unchanged. (That `view_write` is among it is read from R29 by inference,
notes/assumptions/16.md.) -/
def Obligations.TypeICommandsStartTheHead : Prop :=
  ∀ s : State, s.busy = false →
    (∀ h v r, exec (.restore h v r) s =
      .next (typeIStarted s (encode (.restore h v r)) h r 0 .inward)) ∧
    (∀ h v r, exec (.seek h v r) s =
      .next (typeIStarted s (encode (.seek h v r)) h r (min s.data.toNat s.config.maxTrack)
        (if s.physicalTrack < min s.data.toNat s.config.maxTrack then .inward
         else if min s.data.toNat s.config.maxTrack < s.physicalTrack then .outward
         else s.stepVector))) ∧
    (∀ u h v r, exec (.step u h v r) s =
      .next (typeIStarted s (encode (.step u h v r)) h r
        (min (if s.stepVector = .inward then s.physicalTrack + 1 else s.physicalTrack - 1) s.config.maxTrack)
        s.stepVector)) ∧
    (∀ u h v r, exec (.stepIn u h v r) s =
      .next (typeIStarted s (encode (.stepIn u h v r)) h r (min (s.physicalTrack + 1) s.config.maxTrack) .inward)) ∧
    (∀ u h v r, exec (.stepOut u h v r) s =
      .next (typeIStarted s (encode (.stepOut u h v r)) h r (min (s.physicalTrack - 1) s.config.maxTrack) .outward))

/-- R186 (decisions D16, D18): a STEP_SEEK event moves the head one track toward the target, TRACK with it under the
Step family's u flag (clamped), and schedules the next step or the arrival. The head is off its target when such an
event is pending (`State.Inv.stepping`). -/
def Obligations.StepEventMovesTheHeadOneTrack : Prop :=
  ∀ (s : State) (rest : List Stimulus) (t : Nat),
    s.host = .fire :: rest → s.slots.next = some (.stepSeek, ⟨t, s.cmdType⟩) → s.physicalTrack ≠ s.seekTarget →
    let up := s.physicalTrack < s.seekTarget
    let head := if up then s.physicalTrack + 1 else s.physicalTrack - 1
    let updates := 0x20 ≤ s.command.toNat ∧ s.command.toNat < 0x80 ∧ s.command.getLsbD 4 = true
    let moved := min (if up then s.track.toNat + 1 else s.track.toNat - 1) s.config.maxTrack
    step s = .next { s with
      host := rest
      now := t
      physicalTrack := head
      track := if updates then BitVec.ofNat 8 moved else s.track
      slots :=
        if head = s.seekTarget then
          (s.slots.put .stepSeek none).put .seekEnd (some ⟨t + s.config.delays.seekEnd, s.cmdType⟩)
        else s.slots.put .stepSeek (some ⟨t + s.config.delays.step (s.command.extractLsb' 0 2), s.cmdType⟩) }

/-- R187 and R188 (decisions D16, D17, D19, D20): the arrival. RESTORE (0x00 to 0x0F) and SEEK (0x10 to 0x1F) set TRACK;
TRACK00 follows the head; the settle is owed; with V the id under the head is read, the cursor passes it, and the
command ends with SEEK-ERR unless the id carries TRACK. -/
def Obligations.ArrivalEndsATypeICommand : Prop :=
  ∀ (s : State) (rest : List Stimulus) (t : Nat),
    s.host = .fire :: rest → s.slots.next = some (.seekEnd, ⟨t, s.cmdType⟩) →
    let restore := decide (s.command.toNat < 0x10)
    let seek := decide (0x10 ≤ s.command.toNat ∧ s.command.toNat < 0x20)
    let track := if restore = true then 0 else if seek = true then BitVec.ofNat 8 s.seekTarget else s.track
    let checks := s.command.getLsbD 2
    let failed := checks && (match s.unit.geometry s.physicalTrack with
      | none => true
      | some g => match s.unit.sectorId s.physicalTrack s.side (s.rotationCursor % g.sectors) with
        | none => true
        | some id => id.trk != track.toNat)
    ∃ v : Byte,
      step s = .next { s with
        host := rest
        now := t
        track := track
        headEngaged := restore || s.headEngaged
        indexCtr := if restore = true then 0 else s.indexCtr
        settlePending := true
        rotationCursor := match s.unit.geometry s.physicalTrack with
          | none => s.rotationCursor
          | some g => if checks = true then (s.rotationCursor % g.sectors + 1) % g.sectors else s.rotationCursor
        status := v
        irq := true
        drq := false
        xferDir := .none
        cmdType := .idle
        phase := .idle
        slots := Slots.empty } ∧
      v.getLsbD 7 = s.status.getLsbD 7 ∧ v.getLsbD 6 = s.status.getLsbD 6 ∧ v.getLsbD 5 = s.status.getLsbD 5 ∧
      v.getLsbD 4 = (failed || (!restore && s.status.getLsbD 4)) ∧
      v.getLsbD 3 = (!restore && s.status.getLsbD 3) ∧
      v.getLsbD 2 = (s.physicalTrack == 0) ∧
      v.getLsbD 1 = (restore || s.status.getLsbD 1) ∧
      v.getLsbD 0 = false

/-- R182, R186 (95 L1-4): a SEEK of `n` tracks, left to its timers, fires exactly `n` STEP_SEEK events, one
track each, all tagged `SEEK`, with BUSY and no IRQ meanwhile; the next event is the arrival, with TRACK and the head
on the target, IRQ set, nothing pending, and the media untouched. (Runs with no stimulus left fire by
notes/assumptions/3.md, the model's choice, unsafe for liveness: it takes the fairness of R340.) -/
def Obligations.SeekFiresOneStepEventPerTrack : Prop :=
  ∀ (s : State) (h : Bool) (r : BitVec 2), s.busy = false → s.host = [] →
    let target := min s.data.toNat s.config.maxTrack
    let n := if s.physicalTrack ≤ target then target - s.physicalTrack else s.physicalTrack - target
    ∃ t, exec (.seek h false r) s = .next t ∧
      (∀ k, k ≤ n → ∃ u : State, core.run k t = .next u ∧
        u.physicalTrack = (if s.physicalTrack ≤ target then s.physicalTrack + k else s.physicalTrack - k) ∧
        u.irq = false ∧ u.busy = true ∧
        ∃ x, x.owner = .seek ∧ u.slots = Slots.only (if k < n then .stepSeek else .seekEnd) x) ∧
      ∃ w : State, core.run (n + 1) t = .next w ∧ w.physicalTrack = target ∧ w.track = BitVec.ofNat 8 target ∧
        w.irq = true ∧ w.busy = false ∧ w.cmdType = .idle ∧ w.slots = Slots.empty ∧ w.settlePending = true ∧
        w.media = s.media

/-- R181 (decision D17): a RESTORE without verify, left to its timers, brings the head and TRACK to 0 in as many step
events as the head was tracks away, engages the head, shows TRACK00 and INDEX, clears SEEK-ERR and CRC-ERR. (The run
with no stimulus left rests on notes/assumptions/3.md.) -/
def Obligations.RestoreReachesTrackZero : Prop :=
  ∀ (s : State) (h : Bool) (r : BitVec 2), s.busy = false → s.host = [] →
    ∃ t, exec (.restore h false r) s = .next t ∧
      ∃ w : State, core.run (s.physicalTrack + 1) t = .next w ∧
        w.physicalTrack = 0 ∧ w.track = 0 ∧ w.stepVector = .inward ∧ w.headEngaged = true ∧ w.indexCtr = 0 ∧
        w.status = (if s.ready = true then 0x06 else 0x86) ∧
        w.irq = true ∧ w.cmdType = .idle ∧ w.slots = Slots.empty ∧ w.media = s.media

/-- R183 to R185 (decision D18): STEP, STEP_IN and STEP_OUT without verify, left to their timers, end one track further
in their direction or on the boundary; TRACK follows (clamped) only when the head moved and u is set; TRACK00 tells
whether the head is on track 0. (The run with no stimulus left rests on notes/assumptions/3.md.) -/
def Obligations.StepFamilyMovesOneTrackOrStopsAtTheBoundary : Prop :=
  ∀ (s : State) (i : Instr) (u h : Bool) (r : BitVec 2) (dir : Direction),
    s.busy = false → s.host = [] → s.physicalTrack ≤ s.config.maxTrack → s.config.maxTrack ≤ 255 →
    ((i = .step u h false r ∧ dir = s.stepVector) ∨ (i = .stepIn u h false r ∧ dir = .inward) ∨
      (i = .stepOut u h false r ∧ dir = .outward)) →
    let target := if dir = .inward then min (s.physicalTrack + 1) s.config.maxTrack else s.physicalTrack - 1
    let moves := decide (target ≠ s.physicalTrack)
    ∃ t, exec i s = .next t ∧
      ∃ w : State, core.run (if moves = true then 2 else 1) t = .next w ∧
        w.physicalTrack = target ∧ w.stepVector = dir ∧ w.headEngaged = h ∧
        w.track.toNat = (if moves = true ∧ u = true then
          min (if dir = .inward then s.track.toNat + 1 else s.track.toNat - 1) s.config.maxTrack
          else s.track.toNat) ∧
        w.status.getLsbD 2 = decide (target = 0) ∧
        w.irq = true ∧ w.cmdType = .idle ∧ w.slots = Slots.empty ∧ w.media = s.media

/-! ### Dispatch of the Type II and III commands -/

/-- R151, R153 (decisions D15, D20, D22, D37, D50): when the drive is ready, the medium of a write command is not
protected and the side compare (if enabled) agrees, each of the seven commands waits for its SEARCH event, after the
settle delay if one is owed. Everything else is unchanged. -/
def Obligations.TransferCommandsWaitForTheirSearch : Prop :=
  ∀ s : State, s.busy = false → s.ready = true →
    (∀ sd e c x0, (c = true → sd = s.side) → exec (.readSector sd e c x0) s =
      .next (transferStarted s (encode (.readSector sd e c x0)) .readSector false)) ∧
    (∀ sd e c x0, (c = true → sd = s.side) → exec (.readMultiple sd e c x0) s =
      .next (transferStarted s (encode (.readMultiple sd e c x0)) .readMulti false)) ∧
    (∀ x3 e x1 x0, exec (.readAddress x3 e x1 x0) s =
      .next (transferStarted s (encode (.readAddress x3 e x1 x0)) .readAddress false)) ∧
    (∀ x3 e x1 x0, exec (.readTrack x3 e x1 x0) s =
      .next (transferStarted s (encode (.readTrack x3 e x1 x0)) .readTrack false)) ∧
    (s.unit.writeProtected = false →
      (∀ sd e c a0, (c = true → sd = s.side) → exec (.writeSector sd e c a0) s =
        .next (transferStarted s (encode (.writeSector sd e c a0)) .writeSector true)) ∧
      (∀ sd e c a0, (c = true → sd = s.side) → exec (.writeMultiple sd e c a0) s =
        .next (transferStarted s (encode (.writeMultiple sd e c a0)) .writeMulti true)) ∧
      (∀ x3 e x1 x0, exec (.writeTrack x3 e x1 x0) s =
        .next (transferStarted s (encode (.writeTrack x3 e x1 x0)) .writeTrack true)))

/-- R153, R369 (decisions D12, D22, D37, D50): the checks of a Type II/III dispatch, in their order, each an abort in the
command write itself with one error bit: NOTREADY, then WRITE-FAULT, then RECNFND for the side. No event, no DRQ, the
media untouched. -/
def Obligations.TransferDispatchChecksInOrder : Prop :=
  ∀ s : State, s.busy = false →
    (s.ready = false →
      (∀ sd e c x0, exec (.readSector sd e c x0) s =
        .next (transferAborted s (encode (.readSector sd e c x0)) 0x81 false)) ∧
      (∀ sd e c x0, exec (.readMultiple sd e c x0) s =
        .next (transferAborted s (encode (.readMultiple sd e c x0)) 0x81 false)) ∧
      (∀ sd e c a0, exec (.writeSector sd e c a0) s =
        .next (transferAborted s (encode (.writeSector sd e c a0)) 0x81 true)) ∧
      (∀ sd e c a0, exec (.writeMultiple sd e c a0) s =
        .next (transferAborted s (encode (.writeMultiple sd e c a0)) 0x81 true)) ∧
      (∀ x3 e x1 x0, exec (.readAddress x3 e x1 x0) s =
        .next (transferAborted s (encode (.readAddress x3 e x1 x0)) 0x81 false)) ∧
      (∀ x3 e x1 x0, exec (.readTrack x3 e x1 x0) s =
        .next (transferAborted s (encode (.readTrack x3 e x1 x0)) 0x81 false)) ∧
      (∀ x3 e x1 x0, exec (.writeTrack x3 e x1 x0) s =
        .next (transferAborted s (encode (.writeTrack x3 e x1 x0)) 0x81 true))) ∧
    (s.ready = true → s.unit.writeProtected = true →
      (∀ sd e c a0, exec (.writeSector sd e c a0) s =
        .next (transferAborted s (encode (.writeSector sd e c a0)) 0x21 true)) ∧
      (∀ sd e c a0, exec (.writeMultiple sd e c a0) s =
        .next (transferAborted s (encode (.writeMultiple sd e c a0)) 0x21 true)) ∧
      (∀ x3 e x1 x0, exec (.writeTrack x3 e x1 x0) s =
        .next (transferAborted s (encode (.writeTrack x3 e x1 x0)) 0x21 true))) ∧
    (s.ready = true →
      (∀ sd e x0, sd ≠ s.side → exec (.readSector sd e true x0) s =
        .next (transferAborted s (encode (.readSector sd e true x0)) 0x11 false)) ∧
      (∀ sd e x0, sd ≠ s.side → exec (.readMultiple sd e true x0) s =
        .next (transferAborted s (encode (.readMultiple sd e true x0)) 0x11 false)) ∧
      (∀ sd e a0, sd ≠ s.side → s.unit.writeProtected = false → exec (.writeSector sd e true a0) s =
        .next (transferAborted s (encode (.writeSector sd e true a0)) 0x11 true)) ∧
      (∀ sd e a0, sd ≠ s.side → s.unit.writeProtected = false → exec (.writeMultiple sd e true a0) s =
        .next (transferAborted s (encode (.writeMultiple sd e true a0)) 0x11 true)))

/-! ### Search and the Type II commands -/

/-- R73 (decisions D22, D60): the search meets the positions in rotational order from the cursor and answers the first
whose id matches, or nothing after one rotation; an unreadable track has nothing to find. -/
def Obligations.SearchAnswersTheFirstMatchInRotation : Prop :=
  ∀ (u : MediaUnit) (t : Nat) (side : Bool) (cursor : Nat) (wanted : Byte) (cmp cmpSide : Bool),
    (u.geometry t = none → u.search t side cursor wanted cmp cmpSide = none) ∧
    (∀ g, u.geometry t = some g →
      let position := fun i => (cursor % g.sectors + i) % g.sectors
      let hit := fun (id : SectorId) => id.sec = wanted ∧ (cmp = true → id.sd = if cmpSide = true then 1 else 0)
      (∀ p id, u.search t side cursor wanted cmp cmpSide = some (p, id) ↔
        ∃ i, i < g.sectors ∧ p = position i ∧ u.sectorId t side p = some id ∧ hit id ∧
          ∀ j, j < i → ∀ id', u.sectorId t side (position j) = some id' → ¬ hit id') ∧
      (u.search t side cursor wanted cmp cmpSide = none ↔
        ∀ i, i < g.sectors → ∀ id, u.sectorId t side (position i) = some id → ¬ hit id))

/-- R74: on a conforming medium, from any cursor, a search for any of the track's sector numbers finds it, at the
one position that holds it, within one rotation; searched again at once, it takes one full rotation (the other N - 1
positions all miss). -/
def Obligations.RotationIsComplete : Prop :=
  ∀ (u : MediaUnit) (t : Nat) (side : Bool) (g : Zone) (cursor k : Nat),
    u.idTable = [] → u.geometry t = some g → side.toNat < u.numSides → g.sectors ≤ 256 →
    g.interleave.Perm ((List.range g.sectors).map (BitVec.ofNat 8)) → k < g.sectors →
    ∃ i p id, i < g.sectors ∧ p = (cursor % g.sectors + i) % g.sectors ∧
      u.search t side cursor (BitVec.ofNat 8 k) false false = some (p, id) ∧
      id.sec = BitVec.ofNat 8 k ∧
      (∀ q, q < g.sectors → ∀ id', u.sectorId t side q = some id' → id'.sec = BitVec.ofNat 8 k → q = p) ∧
      u.search t side ((p + 1) % g.sectors) (BitVec.ofNat 8 k) false false = some (p, id) ∧
      ∀ j, j + 1 < g.sectors → ((p + 1) % g.sectors + j) % g.sectors ≠ p

/-- R215, R291 (decisions D23, D26, D30, D33): the SEARCH or MULTI_2 event of a read command that finds its sector opens
a session on the whole record: first byte in DATA, DRQ up, a fresh CRC, the watchdog armed, the cursor past the
match. (The draw counter is the model's own, notes/assumptions/5.md.) -/
def Obligations.SectorSearchOpensAReadSession : Prop :=
  ∀ (s : State) (rest : List Stimulus) (k : EventKind) (t : Nat) (g : Zone) (p : Nat) (id : SectorId) (b : Byte)
    (bs : List Byte),
    s.host = .fire :: rest → (k = .search ∨ k = .multi2) → s.slots.next = some (k, ⟨t, s.cmdType⟩) →
    (s.cmdType = .readSector ∨ s.cmdType = .readMulti) →
    s.unit.geometry s.physicalTrack = some g →
    s.unit.search s.physicalTrack s.side s.rotationCursor s.sector (s.command.getLsbD 1) (s.command.getLsbD 3)
      = some (p, id) →
    let off := s.unit.locate s.physicalTrack s.side s.sector.toNat
    s.unit.readBytes s.draws off g.size = b :: bs →
    step s = .next { s with
      host := rest
      now := t
      rotationCursor := (p + 1) % g.sectors
      phase := .transferring
      recTrack := s.physicalTrack
      recSide := s.side
      recSector := s.sector
      recOffset := off
      xferDir := .read
      xferBuf := b :: bs
      xferLen := g.size
      xferPos := 0
      xferCrcOn := true
      crcAcc := 0xFFFF
      data := b
      drq := true
      slots := (s.slots.put k none).put .dataLoss (some ⟨t + s.config.delays.dataLoss, s.cmdType⟩)
      draws := s.draws + 1 }

/-- R215, R292 (decisions D23, D26, D29, D30, D33): the same for a write command: an empty buffer, a byte asked for,
nothing written yet. -/
def Obligations.SectorSearchOpensAWriteSession : Prop :=
  ∀ (s : State) (rest : List Stimulus) (k : EventKind) (t : Nat) (g : Zone) (p : Nat) (id : SectorId),
    s.host = .fire :: rest → (k = .search ∨ k = .multi2) → s.slots.next = some (k, ⟨t, s.cmdType⟩) →
    (s.cmdType = .writeSector ∨ s.cmdType = .writeMulti) →
    s.unit.geometry s.physicalTrack = some g → 0 < g.size →
    s.unit.search s.physicalTrack s.side s.rotationCursor s.sector (s.command.getLsbD 1) (s.command.getLsbD 3)
      = some (p, id) →
    step s = .next { s with
      host := rest
      now := t
      rotationCursor := (p + 1) % g.sectors
      phase := .transferring
      recTrack := s.physicalTrack
      recSide := s.side
      recSector := s.sector
      recOffset := s.unit.locate s.physicalTrack s.side s.sector.toNat
      xferDir := .write
      xferBuf := []
      xferLen := g.size
      xferPos := 0
      xferCrcOn := true
      crcAcc := 0xFFFF
      drq := true
      slots := (s.slots.put k none).put .dataLoss (some ⟨t + s.config.delays.dataLoss, s.cmdType⟩) }

/-- R215, R362 (decisions D22, D45): a Type II search that finds nothing ends the command with RECNFND; the cursor, the
registers and the media stay. -/
def Obligations.FailedSearchEndsWithRecordNotFound : Prop :=
  ∀ (s : State) (rest : List Stimulus) (k : EventKind) (t : Nat),
    s.host = .fire :: rest → (k = .search ∨ k = .multi2) → s.slots.next = some (k, ⟨t, s.cmdType⟩) →
    (s.cmdType = .readSector ∨ s.cmdType = .readMulti ∨ s.cmdType = .writeSector ∨ s.cmdType = .writeMulti) →
    s.unit.search s.physicalTrack s.side s.rotationCursor s.sector (s.command.getLsbD 1) (s.command.getLsbD 3)
      = none →
    step s = .next (ended { s with host := rest, now := t } (s.status ||| 0x10))

/-- R291, R292, R216, R217, R249: a record of length 0 ends within the stimulus that opens it, with no byte asked for and
no session left. READ_SECTOR and READ_MULTIPLE compare a stored CRC with the fresh 0xFFFF; WRITE_SECTOR and
WRITE_MULTIPLE commit no byte and record that CRC (where the medium keeps one) and the a0 mark, or end with WRITE-FAULT
where the store refuses; the single commands complete and the multiple ones wait for MULTI_1. WRITE_TRACK with
`WT_LEN(t)` = 0 calls `make_track` and completes, or ends with WRITE-FAULT. (The draw counter is
notes/assumptions/5.md; that `make_track` leaves all but the store as it is on a medium that is not the reference one is
notes/assumptions/6.md, the model's choice.) -/
def Obligations.EmptyRecordEndsAtOnce : Prop :=
  ∀ (s : State) (rest : List Stimulus) (k : EventKind) (t : Nat) (g : Zone),
    s.host = .fire :: rest → s.slots.next = some (k, ⟨t, s.cmdType⟩) → s.unit.geometry s.physicalTrack = some g →
    (∀ p id, (k = .search ∨ k = .multi2) → g.size = 0 →
      s.unit.search s.physicalTrack s.side s.rotationCursor s.sector (s.command.getLsbD 1) (s.command.getLsbD 3)
        = some (p, id) →
      let off := s.unit.locate s.physicalTrack s.side s.sector.toNat
      let opened := { s with
        host := rest
        now := t
        rotationCursor := (p + 1) % g.sectors
        recTrack := s.physicalTrack
        recSide := s.side
        recSector := s.sector
        recOffset := off
        xferDir := .none
        xferBuf := []
        xferPos := 0
        xferLen := 0
        xferCrcOn := true
        crcAcc := 0xFFFF
        draws := s.draws + 1 }
      let goesOn := fun (u : State) => { u with
        phase := .searching
        slots := ((s.slots.put k none).put .dataLoss none).put .multi1
          (some ⟨t + s.config.delays.multi1, s.cmdType⟩) }
      let bad := s.config.ignoreCrc = false ∧
        ∃ c, s.unit.readStoredCrc s.physicalTrack s.side s.sector = some c ∧ c ≠ 0xFFFF
      let refused := s.unit.storeFails = true ∨ s.unit.storeSize < off
      (s.cmdType = .readSector ∨ s.cmdType = .readMulti → bad →
        step s = .next (ended opened (s.status ||| 0x08))) ∧
      (s.cmdType = .readSector → ¬ bad → step s = .next (ended opened s.status)) ∧
      (s.cmdType = .readMulti → ¬ bad → step s = .next (goesOn opened)) ∧
      (s.cmdType = .writeSector ∨ s.cmdType = .writeMulti → refused →
        step s = .next (ended opened (s.status ||| 0x20))) ∧
      (s.cmdType = .writeSector ∨ s.cmdType = .writeMulti → ¬ refused →
        s.driveSelect < s.media.length → s.unit.wf = true →
        ∃ media : List MediaUnit, media.length = s.media.length ∧
          (∀ d, d ≠ s.driveSelect → media[d]? = s.media[d]?) ∧
          (∃ u, media[s.driveSelect]? = some u ∧
            u = { s.unit with records := u.records } ∧
            u.record s.physicalTrack s.side s.sector =
              ⟨if s.unit.keepsCrc = true then some 0xFFFF
                else (s.unit.record s.physicalTrack s.side s.sector).crc, s.command.getLsbD 0⟩ ∧
            (∀ t side sec, (t, side, sec) ≠ (s.physicalTrack, s.side, s.sector) →
              u.record t side sec = s.unit.record t side sec)) ∧
          (s.cmdType = .writeSector → step s = .next (ended { opened with media := media } s.status)) ∧
          (s.cmdType = .writeMulti → step s = .next (goesOn { opened with media := media })))) ∧
    (k = .search → s.cmdType = .writeTrack → s.writeTrackLength s.physicalTrack = 0 →
      s.driveSelect < s.media.length →
      let off := s.unit.locate s.physicalTrack s.side 0
      ∃ media : List MediaUnit, media.length = s.media.length ∧
        (∀ d, d ≠ s.driveSelect → media[d]? = s.media[d]?) ∧
        (∃ u, media[s.driveSelect]? = some u ∧ u = { s.unit with store := u.store }) ∧
        (s.unit.formatInert = true → media = s.media) ∧
        step s = .next (ended { s with
          host := rest
          now := t
          recTrack := s.physicalTrack
          recSide := s.side
          recSector := 0
          recOffset := off
          xferBuf := []
          xferPos := 0
          xferLen := 0
          xferCrcOn := false
          crcAcc := 0xFFFF
          media := media
          draws := s.draws + 2 }
          (if s.unit.storeFails = true ∨ s.unit.storeSize < off then s.status ||| 0x20 else s.status)))

/-- R218 (decisions D24, D54): MULTI_1 increments SECTOR modulo 256, then ends the command at the end of the track or
schedules the next search. (The draw counter is the model's own, notes/assumptions/7.md.) -/
def Obligations.ContinuationIncrementsSector : Prop :=
  ∀ (s : State) (rest : List Stimulus) (t : Nat) (g : Zone),
    s.host = .fire :: rest → s.slots.next = some (.multi1, ⟨t, s.cmdType⟩) →
    s.unit.geometry s.physicalTrack = some g →
    let sector := BitVec.ofNat 8 (s.sector.toNat + 1)
    let s' := { s with host := rest, now := t, sector := sector, draws := s.draws + 1 }
    let slots := (s.slots.put .multi1 none).put .multi2 (some ⟨t + s.config.delays.multi2, s.cmdType⟩)
    step s = .next
      (if g.sectors ≤ sector.toNat then ended s' s.status
       else { s' with slots := slots })

/-! ### The transfer unit -/

/-- R293 (decision D33): a Data read within a record returns the byte at the position, feeds the CRC if the session bears
one, advances by one, and the next byte is in DATA at once. -/
def Obligations.DataReadAdvancesTheStream : Prop :=
  ∀ (s : State) (rest : List Stimulus) (b next : Byte),
    s.host = .read .data :: rest → s.drq = true →
    (s.cmdType = .readSector ∨ s.cmdType = .readMulti ∨ s.cmdType = .readAddress ∨ s.cmdType = .readTrack) →
    s.xferBuf[s.xferPos]? = some b → s.xferPos + 1 ≠ s.xferLen → s.xferBuf[s.xferPos + 1]? = some next →
    step s = .next { s with
      host := rest
      readValue := some b
      xferPos := s.xferPos + 1
      crcAcc := if s.xferCrcOn = true then crcStep s.crcAcc b else s.crcAcc
      data := next }

/-- R295, R216, R243, R246 (decisions D27, D28, D61): the last byte of a read record. It is returned, DRQ falls, and the
command ends, except that a Read Multiple goes on; a Type II record whose stored CRC differs from the computed one ends
with CRC-ERR unless `IGNORE_CRC`. -/
def Obligations.LastByteOfAReadRecord : Prop :=
  ∀ (s : State) (rest : List Stimulus) (b : Byte),
    s.host = .read .data :: rest → s.drq = true → s.xferBuf[s.xferPos]? = some b → s.xferPos + 1 = s.xferLen →
    let crc := if s.xferCrcOn = true then crcStep s.crcAcc b else s.crcAcc
    let s' := { s with
      host := rest, readValue := some b, xferPos := s.xferPos + 1, crcAcc := crc, drq := false, xferDir := .none }
    let bad := s.config.ignoreCrc = false ∧
      ∃ c, s.unit.readStoredCrc s.recTrack s.recSide s.recSector = some c ∧ c ≠ crc
    (s.cmdType = .readAddress ∨ s.cmdType = .readTrack → step s = .next (ended s' s.status)) ∧
    (s.cmdType = .readSector ∨ s.cmdType = .readMulti → bad → step s = .next (ended s' (s.status ||| 0x08))) ∧
    (s.cmdType = .readSector → ¬ bad → step s = .next (ended s' s.status)) ∧
    (s.cmdType = .readMulti → ¬ bad → step s = .next { s' with
      phase := .searching
      slots := (s.slots.put .dataLoss none).put .multi1 (some ⟨s.now + s.config.delays.multi1, s.cmdType⟩) })

/-- R294: a Data write within a record collects the byte and feeds the CRC; the store is not touched. -/
def Obligations.DataWriteCollectsTheByte : Prop :=
  ∀ (s : State) (rest : List Stimulus) (v : Byte),
    s.host = .write .data v :: rest → s.drq = true →
    (s.cmdType = .writeSector ∨ s.cmdType = .writeMulti ∨ s.cmdType = .writeTrack) →
    s.xferPos + 1 ≠ s.xferLen →
    step s = .next { s with
      host := rest
      data := v
      xferBuf := s.xferBuf ++ [v]
      xferPos := s.xferPos + 1
      crcAcc := if s.xferCrcOn = true then crcStep s.crcAcc v else s.crcAcc }

/-- R217 (decisions D27, D29): the last byte of a Write Sector or Write Multiple record commits the record. Exactly the
bytes at `rec_offset` up to the record's length change, to the bytes collected; the record's CRC is recorded where the
medium keeps one, its deleted mark is the a0 bit, and no other record or drive changes. Then the command ends, or a
Write Multiple goes on. (The draw counter is the model's own, notes/assumptions/5.md.) -/
def Obligations.LastByteOfAWriteRecordCommits : Prop :=
  ∀ (s : State) (rest : List Stimulus) (v : Byte),
    s.host = .write .data v :: rest → s.drq = true → (s.cmdType = .writeSector ∨ s.cmdType = .writeMulti) →
    s.xferPos + 1 = s.xferLen → s.driveSelect < s.media.length → s.unit.wf = true →
    let buf := s.xferBuf ++ [v]
    let crc := if s.xferCrcOn = true then crcStep s.crcAcc v else s.crcAcc
    s.unit.storeFails = false → s.recOffset + buf.length ≤ s.unit.storeSize →
    ∃ media : List MediaUnit, media.length = s.media.length ∧
      (∀ d, d ≠ s.driveSelect → media[d]? = s.media[d]?) ∧
      (∃ u, media[s.driveSelect]? = some u ∧
        u = { s.unit with store := u.store, records := u.records } ∧
        (∀ a, u.store.read a =
          if s.recOffset ≤ a ∧ a < s.recOffset + buf.length then buf.getD (a - s.recOffset) 0
          else s.unit.store.read a) ∧
        u.record s.recTrack s.recSide s.recSector =
          ⟨if s.unit.keepsCrc = true then some crc else (s.unit.record s.recTrack s.recSide s.recSector).crc,
           s.command.getLsbD 0⟩ ∧
        (∀ t side sec, (t, side, sec) ≠ (s.recTrack, s.recSide, s.recSector) →
          u.record t side sec = s.unit.record t side sec)) ∧
      (let s' := { s with
        host := rest, data := v, xferBuf := buf, xferPos := s.xferPos + 1, crcAcc := crc, drq := false,
        xferDir := .none, media := media, draws := s.draws + 1 }
       (s.cmdType = .writeSector → step s = .next (ended s' s.status)) ∧
       (s.cmdType = .writeMulti → step s = .next { s' with
         phase := .searching
         slots := (s.slots.put .dataLoss none).put .multi1 (some ⟨s.now + s.config.delays.multi1, s.cmdType⟩) }))

/-- R217, R249, R364: a commit whose `write_bytes` fails ends the command with WRITE-FAULT and records no CRC and no
mark. What the range holds then is open (93 U3); on a medium whose `make_track` is inert every byte outside the range
keeps its value. (The model's choice: that a failed write changes no byte outside its range, notes/assumptions/5.md; that
a WRITE_TRACK keeps the metadata on a medium that is not the reference one, notes/assumptions/6.md, unsafe.) -/
def Obligations.FailedCommitEndsWithWriteFault : Prop :=
  ∀ (s : State) (rest : List Stimulus) (v : Byte),
    s.host = .write .data v :: rest → s.drq = true →
    (s.cmdType = .writeSector ∨ s.cmdType = .writeMulti ∨ s.cmdType = .writeTrack) →
    s.xferPos + 1 = s.xferLen → s.driveSelect < s.media.length → s.unit.wf = true →
    let buf := s.xferBuf ++ [v]
    (s.unit.storeFails = true ∨ s.unit.storeSize < s.recOffset + buf.length) →
    ∃ w, step s = .next w ∧
      w.status = (s.status ||| 0x20) &&& 0xFE ∧ w.cmdType = .idle ∧ w.phase = .idle ∧ w.irq = true ∧ w.drq = false ∧
      w.slots = Slots.empty ∧ w.sector = s.sector ∧ w.track = s.track ∧ w.rotationCursor = s.rotationCursor ∧
      (∀ d, d ≠ s.driveSelect → w.media[d]? = s.media[d]?) ∧
      w.unit.records = s.unit.records ∧
      ((s.cmdType ≠ .writeTrack ∨ s.unit.formatInert = true) →
        ∀ a, ¬ (s.recOffset ≤ a ∧ a < s.recOffset + buf.length) → w.unit.store.read a = s.unit.store.read a)

/-- R249 (decision D36): the last byte of a Write Track image calls `make_track`, then commits the image verbatim and
ends the command; on the reference medium exactly the image's bytes change, on another medium at least those hold the
image. (That metadata, ids, geometry and flags stay is R65's reference behaviour; on a medium that is not the reference
one it is the model's choice, notes/assumptions/6.md, unsafe. The draw counter is notes/assumptions/5.md and 6.md.) -/
def Obligations.LastByteOfATrackImageCommits : Prop :=
  ∀ (s : State) (rest : List Stimulus) (v : Byte),
    s.host = .write .data v :: rest → s.drq = true → s.cmdType = .writeTrack →
    s.xferPos + 1 = s.xferLen → s.driveSelect < s.media.length → s.unit.wf = true →
    let buf := s.xferBuf ++ [v]
    s.unit.storeFails = false → s.recOffset + buf.length ≤ s.unit.storeSize →
    ∃ media : List MediaUnit, media.length = s.media.length ∧
      (∀ d, d ≠ s.driveSelect → media[d]? = s.media[d]?) ∧
      (∃ u, media[s.driveSelect]? = some u ∧ u = { s.unit with store := u.store } ∧
        (∀ a, s.recOffset ≤ a ∧ a < s.recOffset + buf.length → u.store.read a = buf.getD (a - s.recOffset) 0) ∧
        (s.unit.formatInert = true →
          ∀ a, ¬ (s.recOffset ≤ a ∧ a < s.recOffset + buf.length) → u.store.read a = s.unit.store.read a)) ∧
      step s = .next (ended { s with
        host := rest, data := v, xferBuf := buf, xferPos := s.xferPos + 1
        crcAcc := if s.xferCrcOn = true then crcStep s.crcAcc v else s.crcAcc
        media := media, draws := s.draws + 2 } s.status)

/-- R298, R365 (decisions D26, D29): the watchdog ends the command with LOSTDATA and drops the session; nothing is
written. -/
def Obligations.DataLossEndsTheCommand : Prop :=
  ∀ (s : State) (rest : List Stimulus) (t : Nat),
    s.host = .fire :: rest → s.slots.next = some (.dataLoss, ⟨t, s.cmdType⟩) →
    step s = .next (ended { s with host := rest, now := t } (s.status ||| 0x04))

/-! ### Type III -/

/-- R242 (decisions D34, D48): the SEARCH event of READ_ADDRESS serves the id under the head, four bytes and their CRC
high byte first, the cursor past it; without an id it ends with RECNFND, and on an unreadable track the cursor stays. -/
def Obligations.ReadAddressServesTheIdUnderTheHead : Prop :=
  ∀ (s : State) (rest : List Stimulus) (t : Nat),
    s.host = .fire :: rest → s.slots.next = some (.search, ⟨t, s.cmdType⟩) → s.cmdType = .readAddress →
    (s.unit.geometry s.physicalTrack = none →
      step s = .next (ended { s with host := rest, now := t } (s.status ||| 0x10))) ∧
    (∀ g, s.unit.geometry s.physicalTrack = some g →
      let p := s.rotationCursor % g.sectors
      let s' := { s with host := rest, now := t, rotationCursor := (p + 1) % g.sectors }
      (s.unit.sectorId s.physicalTrack s.side p = none → step s = .next (ended s' (s.status ||| 0x10))) ∧
      (∀ id, s.unit.sectorId s.physicalTrack s.side p = some id →
        let four := [BitVec.ofNat 8 id.trk, id.sd, id.sec, id.code]
        step s = .next { s' with
          phase := .transferring
          recTrack := s.physicalTrack
          recSide := s.side
          recSector := id.sec
          recOffset := 0
          xferDir := .read
          xferBuf := four ++ [(crc16 four).extractLsb' 8 8, (crc16 four).extractLsb' 0 8]
          xferLen := 6
          xferPos := 0
          xferCrcOn := false
          crcAcc := 0xFFFF
          data := BitVec.ofNat 8 id.trk
          drq := true
          slots := (s.slots.put .search none).put .dataLoss (some ⟨t + s.config.delays.dataLoss, s.cmdType⟩) }))

/-- R245 (decision D35): the SEARCH event of READ_TRACK serves the synthetic image: the start of the track, then each
position that has an id, in physical order, with its id record and CRC and its data and CRC between the gaps; the cursor
goes to 0. On an unreadable track it ends with RECNFND. (The draw counter is the model's own,
notes/assumptions/5.md.) -/
def Obligations.ReadTrackServesTheTrackImage : Prop :=
  ∀ (s : State) (rest : List Stimulus) (t : Nat),
    s.host = .fire :: rest → s.slots.next = some (.search, ⟨t, s.cmdType⟩) → s.cmdType = .readTrack →
    (s.unit.geometry s.physicalTrack = none →
      step s = .next (ended { s with host := rest, now := t } (s.status ||| 0x10))) ∧
    (∀ g b bs, s.unit.geometry s.physicalTrack = some g →
      let l := s.config.rtLayout
      let gap := fun n => List.replicate n l.gapByte
      let zeros := List.replicate l.syncLen (0x00 : Byte)
      let sum := fun (d : List Byte) => [(crc16 d).extractLsb' 8 8, (crc16 d).extractLsb' 0 8]
      let sectorPart := fun p => match s.unit.sectorId s.physicalTrack s.side p with
        | none => []
        | some id =>
          let four := [BitVec.ofNat 8 id.trk, id.sd, id.sec, id.code]
          let d := s.unit.readBytes (s.draws + p)
            (s.unit.locate s.physicalTrack s.side id.sec.toNat) g.size
          zeros ++ l.idam ++ four ++ sum four ++ gap l.gap2Len ++ zeros ++ l.dam ++ d ++ sum d ++ gap l.gap3Len
      let image := gap l.gap4aLen ++ zeros ++ l.iam ++ gap l.gap1Len ++ (List.range g.sectors).flatMap sectorPart
      image = b :: bs →
      step s = .next { s with
        host := rest
        now := t
        rotationCursor := 0
        phase := .readingTrack
        recTrack := s.physicalTrack
        recSide := s.side
        recSector := 0
        recOffset := 0
        xferDir := .read
        xferBuf := image
        xferLen := image.length
        xferPos := 0
        xferCrcOn := false
        crcAcc := 0xFFFF
        data := b
        drq := true
        slots := (s.slots.put .search none).put .dataLoss (some ⟨t + s.config.delays.dataLoss, s.cmdType⟩)
        draws := s.draws + g.sectors })

/-- R248 (decision D36): the SEARCH event of WRITE_TRACK asks for `WT_LEN(t)` bytes, by default the track's, at the
start of the track; on an unreadable track it ends with WRITE-FAULT. (An image of length 0 ends at
once, R292: EmptyRecordEndsAtOnce.) -/
def Obligations.WriteTrackAsksForTheTrackImage : Prop :=
  ∀ (s : State) (rest : List Stimulus) (t : Nat),
    s.host = .fire :: rest → s.slots.next = some (.search, ⟨t, s.cmdType⟩) → s.cmdType = .writeTrack →
    (s.unit.geometry s.physicalTrack = none →
      step s = .next (ended { s with host := rest, now := t } (s.status ||| 0x20))) ∧
    (∀ g, s.unit.geometry s.physicalTrack = some g →
      let len := match s.config.wtLen.find? (fun e => e.1 == s.physicalTrack) with
        | some e => e.2
        | none => g.sectors * g.size
      0 < len →
      step s = .next { s with
        host := rest
        now := t
        phase := .writingTrack
        recTrack := s.physicalTrack
        recSide := s.side
        recSector := 0
        recOffset := s.unit.locate s.physicalTrack s.side 0
        xferDir := .write
        xferBuf := []
        xferLen := len
        xferPos := 0
        xferCrcOn := false
        crcAcc := 0xFFFF
        drq := true
        slots := (s.slots.put .search none).put .dataLoss (some ⟨t + s.config.delays.dataLoss, s.cmdType⟩) })

/-! ### Type IV -/

/-- R270 to R273 (decisions D6, D38 to D40): a Force Interrupt is served in every state. It clears BUSY and DRQ and every
event and session, updates the latch (XOR from idle or the Type IV cycle, else replaced), sets IRQ at once with I3, and
otherwise arms the re-arm timer when a condition is left. -/
def Obligations.ForceInterruptIsServedInEveryState : Prop :=
  ∀ (s : State) (cond : BitVec 4),
    let latch := if s.cmdType = .idle ∨ s.cmdType = .forceInterrupt then s.intLatch ^^^ cond else cond
    let arms := latch.getLsbD 3 = false ∧ latch ≠ 0
    exec (.forceInterrupt cond) s = .next { s with
      command := encode (.forceInterrupt cond)
      intLatch := latch
      irq := latch.getLsbD 3
      drq := false
      xferDir := .none
      statusView := if s.cmdType = .idle then .typeI else s.statusView
      cmdType := .forceInterrupt
      phase := .forceInterrupt
      status := s.status &&& 0xFE
      fiReadyRef := if arms then s.ready else s.fiReadyRef
      slots := if arms then Slots.only .fiRearm ⟨s.now + s.config.delays.fi, .forceInterrupt⟩ else Slots.empty }

/-- R274 (decision D38): the re-arm event sets IRQ on an index pulse (I2) or on the transition I0 or I1 ask for, and polls
again otherwise. -/
def Obligations.RearmEventWaitsForItsCondition : Prop :=
  ∀ (s : State) (rest : List Stimulus) (t : Nat),
    s.host = .fire :: rest → s.slots.next = some (.fiRearm, ⟨t, s.cmdType⟩) →
    let met := s.intLatch.getLsbD 2 = true ∨
      (s.intLatch.getLsbD 0 = true ∧ s.fiReadyRef = false ∧ s.ready = true) ∨
      (s.intLatch.getLsbD 1 = true ∧ s.fiReadyRef = true ∧ s.ready = false)
    (met → step s = .next { s with host := rest, now := t, slots := s.slots.put .fiRearm none, irq := true }) ∧
    (¬ met → step s = .next { s with
      host := rest
      now := t
      fiReadyRef := s.ready
      slots := s.slots.put .fiRearm (some ⟨t + s.config.delays.fi, s.cmdType⟩) })

/-! ### Ports -/

/-- R131 and R132 (decisions D6, D13, D14, D58): a status read recomputes the bits of its view, clears IRQ and returns the
byte. BUSY, CRC-ERR and SEEK-ERR/RECNFND are never changed by it. -/
def Obligations.StatusReadRecomputesAndAcknowledges : Prop :=
  ∀ (s : State) (rest : List Stimulus), s.host = .read .control :: rest →
    let viewI := s.statusView = .typeI
    ∃ v : Byte,
      step s = .next { s with
        host := rest
        status := v
        readValue := some v
        irq := false
        indexCtr := if viewI ∧ s.ready = true then (s.indexCtr + 1) % s.config.indexPeriod else s.indexCtr } ∧
      v.getLsbD 7 = !s.ready ∧
      v.getLsbD 6 = (if s.ready = true then
        (if viewI then s.unit.writeProtected else s.viewWrite && s.unit.writeProtected) else s.status.getLsbD 6) ∧
      v.getLsbD 5 = (if viewI ∧ s.ready = true then s.headEngaged else s.status.getLsbD 5) ∧
      v.getLsbD 4 = s.status.getLsbD 4 ∧
      v.getLsbD 3 = s.status.getLsbD 3 ∧
      v.getLsbD 2 = (if viewI ∧ s.ready = true then s.physicalTrack == 0 else s.status.getLsbD 2) ∧
      v.getLsbD 1 = (if viewI then (if s.ready = true then s.indexCtr == 0 else s.status.getLsbD 1) else s.drq) ∧
      v.getLsbD 0 = s.status.getLsbD 0

/-- R133, R134 (decisions D31, D56): a Track or Sector write sets its register, unless BUSY with a Type II/III command
under the policy REJECT, when it has no effect. -/
def Obligations.TrackAndSectorWrites : Prop :=
  ∀ (s : State) (rest : List Stimulus) (v : Byte),
    let transfer := s.cmdType = .readSector ∨ s.cmdType = .readMulti ∨ s.cmdType = .writeSector ∨
      s.cmdType = .writeMulti ∨ s.cmdType = .readAddress ∨ s.cmdType = .readTrack ∨ s.cmdType = .writeTrack
    let turnedAway := s.busy = true ∧ transfer ∧ s.config.pokePolicy = .reject
    (s.host = .write .track v :: rest →
      (turnedAway → step s = .next { s with host := rest }) ∧
      (¬ turnedAway → step s = .next { s with host := rest, track := v })) ∧
    (s.host = .write .sector v :: rest →
      (turnedAway → step s = .next { s with host := rest }) ∧
      (¬ turnedAway → step s = .next { s with host := rest, sector := v }))

/-- R135: a read of port 1 returns TRACK and of port 2 SECTOR, with no side effect in any state. -/
def Obligations.TrackAndSectorReads : Prop :=
  ∀ (s : State) (rest : List Stimulus),
    (s.host = .read .track :: rest → step s = .next { s with host := rest, readValue := some s.track }) ∧
    (s.host = .read .sector :: rest → step s = .next { s with host := rest, readValue := some s.sector })

/-- R136, R137, R410 (decision D32): a Data access that moves no byte of a session. A write is discarded while BUSY with a
Type II/III command (unless a write session has DRQ), and sets DATA otherwise; a read returns DATA and changes nothing
(unless a read session has DRQ). -/
def Obligations.DataPortOutsideASession : Prop :=
  ∀ (s : State) (rest : List Stimulus) (v : Byte),
    let reads := s.cmdType = .readSector ∨ s.cmdType = .readMulti ∨ s.cmdType = .readAddress ∨ s.cmdType = .readTrack
    let writes := s.cmdType = .writeSector ∨ s.cmdType = .writeMulti ∨ s.cmdType = .writeTrack
    (s.host = .write .data v :: rest → ¬ (writes ∧ s.drq = true) →
      (s.busy = true ∧ (reads ∨ writes) → step s = .next { s with host := rest }) ∧
      (¬ (s.busy = true ∧ (reads ∨ writes)) → step s = .next { s with host := rest, data := v })) ∧
    (s.host = .read .data :: rest → ¬ (reads ∧ s.drq = true) →
      step s = .next { s with host := rest, readValue := some s.data })

/-- R138 (decision D46): an input change sets the three inputs and nothing else. (That a drive number outside
0..`NUM_DRIVES`-1 stops the model is the model's choice, notes/assumptions/8.md.) -/
def Obligations.InputChangeSetsOnlyTheInputs : Prop :=
  ∀ (s : State) (rest : List Stimulus) (d : Nat) (side motor : Bool), s.host = .set d side motor :: rest →
    (d < s.media.length →
      step s = .next { s with host := rest, driveSelect := d, side := side, motorOn := motor }) ∧
    (s.media.length ≤ d → step s = .fault .noSuchDrive)

/-! ### The scheduler -/

/-- R335, R338 (decision D2): the event that fires is a pending one with the least fire time, the earlier kind of the
table of R330 among equals; and there is one whenever a slot is not empty. -/
def Obligations.EarliestPendingEventFires : Prop :=
  ∀ q : Slots,
    (∀ k x, q.next = some (k, x) ↔ q.get k = some x ∧
      ∀ k' y, q.get k' = some y → x.fireTime < y.fireTime ∨
        (x.fireTime = y.fireTime ∧ EventKind.all.idxOf k ≤ EventKind.all.idxOf k')) ∧
    (q.next = none ↔ q = Slots.empty)

/-- R335, R336: an event whose owner is not the command in force only empties its slot and sets the clock. -/
def Obligations.StaleEventIsDiscarded : Prop :=
  ∀ (s : State) (rest : List Stimulus) (k : EventKind) (x : Slot),
    s.host = .fire :: rest → s.slots.next = some (k, x) → x.owner ≠ s.cmdType →
    step s = .next { s with host := rest, now := x.fireTime, slots := s.slots.put k none }

/-- R336, R339: in a state a run reaches, the event that fires is the only one pending, it is not stale, and the clock does
not go back. -/
def Obligations.OnlyOneEventIsPendingAndItIsNotStale : Prop :=
  ∀ s : State, s.Inv → ∀ k x, s.slots.next = some (k, x) →
    x.owner = s.cmdType ∧ s.slots.put k none = Slots.empty ∧ s.now ≤ x.fireTime ∧
      ∀ k' y, s.slots.get k' = some y → k' = k ∧ y = x

/-- R332 to R334: `schedule` replaces the pending event of its kind, tagged with the command in force; `cancel` empties
one slot, which does nothing to an empty one, and `cancel_all` every slot. No other slot and no other field is
touched. -/
def Obligations.ScheduleReplacesAndCancelEmpties : Prop :=
  ∀ (s : State) (k k' : EventKind) (d : Nat),
    s.schedule k d = { s with slots := (s.schedule k d).slots } ∧
    (s.schedule k d).slots.get k' = (if k' = k then some ⟨s.now + d, s.cmdType⟩ else s.slots.get k') ∧
    s.cancel k = { s with slots := (s.cancel k).slots } ∧
    (s.cancel k).slots.get k' = (if k' = k then none else s.slots.get k') ∧
    (s.slots.get k = none → s.cancel k = s) ∧
    s.cancelAll = { s with slots := s.cancelAll.slots } ∧
    s.cancelAll.slots.get k' = none

/-! ### CRC -/

/-- R316, R312 and spec/95_test_vectors.md L2-1: the golden value and four others. -/
def Obligations.CrcGoldenValues : Prop :=
  crc16 [] = 0xFFFF ∧
  crc16 [0x00] = 0xE1F0 ∧
  crc16 [0xFF] = 0xFF00 ∧
  crc16 [0x01] = 0xF1D1 ∧
  crc16 [0x80] = 0x7078 ∧
  crc16 [0x31, 0x32, 0x33, 0x34, 0x35, 0x36, 0x37, 0x38, 0x39] = 0x29B1 ∧
  crc16 [0x00, 0x00, 0x03, 0x01] = 0xC1B2

/-- R314, R315: a sequence followed by its own CRC, high byte first, leaves 0; and `crc_check` accepts exactly those two
bytes. -/
def Obligations.CrcResidualIsZero : Prop :=
  ∀ d : List Byte,
    crc16 (d ++ [(crc16 d).extractLsb' 8 8, (crc16 d).extractLsb' 0 8]) = 0 ∧
    ∀ hi lo : Byte, crcCheck d hi lo = true ↔ hi ++ lo = crc16 d

/-! ### Address resolution and the store -/

/-- R70, R68: the closed form of `locate` on a two-zone medium. -/
def Obligations.LocateHasItsClosedForm : Prop :=
  ∀ (u : MediaUnit) (t : Nat) (side : Bool) (k : Nat), t < u.numTracks →
    let b := min u.zoneBoundary u.numTracks
    let sideBytes := b * u.zone0.sectors * u.zone0.size + (u.numTracks - b) * u.zone1.sectors * u.zone1.size
    let before := if t ≤ u.zoneBoundary then t * u.zone0.sectors * u.zone0.size
      else u.zoneBoundary * u.zone0.sectors * u.zone0.size + (t - u.zoneBoundary) * u.zone1.sectors * u.zone1.size
    let size := if t < u.zoneBoundary then u.zone0.size else u.zone1.size
    u.locate t side k = (if side = true then 1 else 0) * sideBytes + before + k * size

/-- R71: `locate(0,0,0)` is 0, a record later in (side, track, sector) order starts at or after the end of an earlier
one, so records never overlap and, where sectors are not empty, `locate` is strictly increasing. -/
def Obligations.RecordsAreOrderedAndDisjoint : Prop :=
  ∀ (u : MediaUnit) (g g' : Zone) (t t' k k' : Nat) (side side' : Bool),
    u.locate 0 false 0 = 0 ∧
    (u.geometry t = some g → u.geometry t' = some g' → k < g.sectors → k' < g'.sectors →
      ((side = false ∧ side' = true) ∨ (side = side' ∧ (t < t' ∨ (t = t' ∧ k < k')))) →
      u.locate t side k + g.size ≤ u.locate t' side' k')

/-- R64: a `write_bytes` that answers `ok` leaves exactly its bytes: a read of the range returns them, and every other
offset reads as before; the store keeps its canonical form. -/
def Obligations.StoreReadsBackWhatWasWritten : Prop :=
  ∀ (u : MediaUnit) (draw draw' off : Nat) (bytes : List Byte),
    u.wf = true → u.storeFails = false → off + bytes.length ≤ u.storeSize →
    (u.writeBytes draw off bytes).2 = true ∧
    (u.writeBytes draw off bytes).1.wf = true ∧
    (u.writeBytes draw off bytes).1.readBytes draw' off bytes.length = bytes ∧
    ∀ a, ¬ (off ≤ a ∧ a < off + bytes.length) →
      (u.writeBytes draw off bytes).1.store.read a = u.store.read a

/-! ### Reset -/

/-- R43 and R38 (decisions D41, D46): the reset state, without inputs. The parameters and the medium it carries are the
model's choice (notes/assumptions/1.md and 2.md) and nothing is said of them here. -/
def Obligations.ResetStateHoldsTheResetValues : Prop :=
  let s := State.reset
  s.status = 0x00 ∧ s.command = 0x00 ∧ s.track = 0x00 ∧ s.sector = 0x00 ∧ s.data = 0x00 ∧ s.irq = false ∧
  s.drq = false ∧ s.cmdType = .idle ∧ s.phase = .idle ∧ s.statusView = .typeI ∧ s.viewWrite = false ∧
  s.physicalTrack = 0 ∧ s.stepVector = .inward ∧ s.rotationCursor = 0 ∧ s.settlePending = false ∧
  s.headEngaged = false ∧ s.indexCtr = 0 ∧ s.intLatch = 0 ∧ s.fiReadyRef = false ∧ s.seekTarget = 0 ∧
  s.driveSelect = 0 ∧ s.side = false ∧ s.motorOn = false ∧
  s.xferDir = .none ∧ s.xferBuf = [] ∧ s.xferPos = 0 ∧ s.xferLen = 0 ∧ s.xferCrcOn = false ∧ s.recTrack = 0 ∧
  s.recSide = false ∧ s.recSector = 0 ∧ s.recOffset = 0 ∧ s.crcAcc = 0xFFFF ∧ s.now = 0 ∧ s.slots = Slots.empty

/-- R400 (decisions D41, D46): the stimulus RESET, whatever the block was doing: every field of the block takes its value
of R43, at once and with no IRQ, while the inputs keep their levels and the media, the parameters and the stimuli still
to come are not touched. -/
def Obligations.ResetStimulusRestoresTheResetState : Prop :=
  ∀ (s : State) (rest : List Stimulus), s.host = .reset :: rest →
    step s = .next { s with
      status := 0x00
      command := 0x00
      track := 0x00
      sector := 0x00
      data := 0x00
      irq := false
      drq := false
      cmdType := .idle
      phase := .idle
      statusView := .typeI
      viewWrite := false
      physicalTrack := 0
      stepVector := .inward
      rotationCursor := 0
      settlePending := false
      headEngaged := false
      indexCtr := 0
      intLatch := 0
      fiReadyRef := false
      seekTarget := 0
      xferDir := .none
      xferBuf := []
      xferPos := 0
      xferLen := 0
      xferCrcOn := false
      recTrack := 0
      recSide := false
      recSector := 0
      recOffset := 0
      crcAcc := 0xFFFF
      now := 0
      slots := Slots.empty
      host := rest }

/-! ### Whole-machine rules -/

/-- The invariant holds at reset. (Its clauses on the parameters, the drive, the media and the index counter rest on the
values `State.reset` carries by the model's choice, notes/assumptions/1.md and 2.md, unsafe.) -/
def Obligations.ResetStateMeetsTheInvariant : Prop := State.reset.Inv

/-- Tier 3. Every step keeps the invariant: the BUSY rule (R24), the phases (R28, R162), the ranges (R30, R35, R37), DRQ and
the session (R290, R291, R294, R296), the accumulator (R311), at most one event and none stale (R336, R339), and the
media in their canonical form. -/
def Obligations.EveryStepKeepsTheInvariant : Prop :=
  ∀ s t : State, s.Inv → step s = .next t → t.Inv

/-- R360 (decision D47): no stimulus faults, halts or sticks the block: a step on any stimulus the spec has, or on none,
answers a next state. (That there is a step on none, also with no event pending, is the model's choice,
notes/assumptions/3.md; that an access of the surrounding system to a MediaUnit is a stimulus is read from R67 by
inference, notes/assumptions/9.md.) -/
def Obligations.NoStimulusStopsTheBlock : Prop :=
  ∀ s : State, (∀ x, Takes s x → x.wf s.media.length = true) → ∃ t, step s = .next t

/-- R413: a quiescent block to which nothing is done stays as it is. (That the model steps at all then is its choice,
notes/assumptions/3.md.) -/
def Obligations.QuiescentBlockStaysAsItIs : Prop :=
  ∀ s : State, s.quiescent → s.host = [] → step s = .next s

/-- R44, R400: which stimuli and events write which register, in every state; the parameters are never written and no
drive appears or goes. -/
def Obligations.RegistersAreWrittenOnlyByTheirWriters : Prop :=
  ∀ s t : State, step s = .next t →
    t.config = s.config ∧ t.media.length = s.media.length ∧
    (t.command ≠ s.command → Takes s .reset ∨ ∃ v, Takes s (.write .control v) ∧ t.command = v) ∧
    (t.track ≠ s.track → Takes s .reset ∨ Fires s .stepSeek ∨ Fires s .seekEnd ∨
      ∃ v, Takes s (.write .track v) ∧ t.track = v) ∧
    (t.sector ≠ s.sector → Takes s .reset ∨ Fires s .multi1 ∨
      ∃ v, Takes s (.write .sector v) ∧ t.sector = v) ∧
    (t.data ≠ s.data → Takes s .reset ∨ Fires s .search ∨ Fires s .multi2 ∨ Takes s (.read .data) ∨
      ∃ v, Takes s (.write .data v) ∧ t.data = v) ∧
    (t.physicalTrack ≠ s.physicalTrack → Takes s .reset ∨ Fires s .stepSeek) ∧
    (t.rotationCursor ≠ s.rotationCursor → Takes s .reset ∨ Fires s .search ∨ Fires s .multi2 ∨
      Fires s .seekEnd) ∧
    (t.driveSelect ≠ s.driveSelect ∨ t.side ≠ s.side ∨ t.motorOn ≠ s.motorOn →
      Takes s (.set t.driveSelect t.side t.motorOn))

/-- R67, R79, R213, R292, R294 (decisions D29, D37): the block writes a MediaUnit only at the end of a write command's
record, and only the selected one: on the last byte of an open session, or for an empty record (sectors of size 0,
`WT_LEN(t)` = 0) at the search that opens it. Every other change of the media is the surrounding system's own
(notes/assumptions/9.md). -/
def Obligations.MediaChangeOnlyAtTheEndOfAWriteRecord : Prop :=
  ∀ s t : State, step s = .next t → t.media ≠ s.media →
    (∃ d u, Takes s (.media d u) ∧ t.media = s.media.set d u) ∨
    ((s.cmdType = .writeSector ∨ s.cmdType = .writeMulti ∨ s.cmdType = .writeTrack) ∧
      (∀ d, d ≠ s.driveSelect → t.media[d]? = s.media[d]?) ∧
      ((∃ v, Takes s (.write .data v) ∧ s.drq = true ∧ s.xferPos + 1 = s.xferLen) ∨
       ((Fires s .multi2 ∨ (Fires s .search ∧ s.cmdType ≠ .writeTrack)) ∧
         ∃ g, s.unit.geometry s.physicalTrack = some g ∧ g.size = 0) ∨
       (Fires s .search ∧ s.cmdType = .writeTrack ∧ s.unit.geometry s.physicalTrack ≠ none ∧
         s.writeTrackLength s.physicalTrack = 0)))

/-- Tier 3. R100 (decisions D4, D21): the ignored bits are never looked at. Two states of runs that differ only in the
ignored bits of COMMAND and of the command bytes to come stay so, step by step. -/
def Obligations.IgnoredBitsAreNeverLookedAt : Prop :=
  ∀ s t : State, s.Inv → t.Inv → s.significantBits = t.significantBits →
    (∀ s', step s = .next s' → ∃ t', step t = .next t' ∧ s'.significantBits = t'.significantBits) ∧
    (∀ f, step s = .fault f → step t = .fault f)

/-- Tier 3. R339, R341, R412 (decisions D2, D3): no outcome depends on a delay. Two states of runs that are the same but for
the clock, the fire times and the delay parameters stay so, step by step, whatever the delays are. -/
def Obligations.NoOutcomeDependsOnTheDelays : Prop :=
  ∀ s t : State, s.Inv → t.Inv → s.timeless = t.timeless →
    (∀ s', step s = .next s' → ∃ t', step t = .next t' ∧ s'.timeless = t'.timeless) ∧
    (∀ f, step s = .fault f → step t = .fault f)

/-- R335, R340 (the model's choice, notes/assumptions/3.md): a step with no stimulus left does what a step on the stimulus
`fire` does, and a firing neither looks at the stimuli that follow it nor changes them. -/
def Obligations.EmptyQueueFiresTheSameEvent : Prop :=
  ∀ (s : State) (rest : List Stimulus), ∃ w : State,
    step { s with host := .fire :: rest } = .next { w with host := rest } ∧
    step { s with host := [] } = .next { w with host := [] }
end

