-- ==== Sys2Proof/Laws/Crc.lean ====
section
/-! SUPPORT. The CRC engine: a round is linear, and eight rounds move a low byte up unchanged. -/

namespace Sys2Proof.Laws

open Sys2Proof.Machine

@[simp] theorem crc16_nil : crc16 [] = 0xFFFF := rfl

/-- Streaming one more byte (R312). -/
theorem crc16_append (d e : List Byte) : crc16 (d ++ e) = e.foldl crcStep (crc16 d) := by
  unfold crc16
  exact List.foldl_append

theorem crc16_snoc (d : List Byte) (b : Byte) : crc16 (d ++ [b]) = crcStep (crc16 d) b := crc16_append d [b]

/-- A round of R311 distributes over XOR. -/
theorem crcRound_xor (a b : Word16) : crcRound (a ^^^ b) = crcRound a ^^^ crcRound b := by
  unfold crcRound
  rw [BitVec.getLsbD_xor, BitVec.shiftLeft_xor_distrib]
  generalize a <<< 1 = x
  generalize b <<< 1 = y
  cases a.getLsbD 15 <;> cases b.getLsbD 15 <;>
    simp only [bne_self_eq_false, Bool.false_bne, Bool.bne_false, Bool.false_eq_true, if_true, if_false]
  · exact BitVec.xor_assoc _ _ _
  · rw [BitVec.xor_assoc, BitVec.xor_assoc, BitVec.xor_comm y]
  · rw [BitVec.xor_assoc x, BitVec.xor_comm y, ← BitVec.xor_assoc 4129#16, BitVec.xor_self, BitVec.zero_xor]

theorem crcRounds_xor (n : Nat) (a b : Word16) : crcRounds n (a ^^^ b) = crcRounds n a ^^^ crcRounds n b := by
  induction n generalizing a b with
  | zero => rfl
  | succ n ih => simp [crcRounds, crcRound_xor, ih]

/-- Eight rounds shift a byte out of the low half without touching the polynomial. -/
theorem crcRounds_low : ∀ l : Byte, crcRounds 8 (l.setWidth 16) = l.setWidth 16 <<< 8 := by decide

end Sys2Proof.Laws
end

