-- ==== Sys2Proof/Laws/Memory.lean ====
section
/-! SUPPORT. The store and the record metadata as canonical sparse data: what a write changes, that it changes nothing
else, and that every memory operation keeps the canonical form. -/

namespace Sys2Proof.Laws

open Sys2Proof.Machine

variable {α : Type} [DecidableEq α] {d : α}

/-! ### Canonical sparse data -/

omit [DecidableEq α] in
/-- A key below every listed key reads as the default. -/
theorem sparseGet_below {m : List (Nat × α)} {a : Nat} (h : ∀ p ∈ m, a < p.1) : sparseGet d m a = d := by
  induction m with
  | nil => rfl
  | cons p m ih =>
    have hp := h p (by simp)
    simp only [sparseGet]
    rw [if_neg (by omega), ih (fun q hq => h q (by simp [hq]))]

/-- Every listed key after a write is the written one or was listed. -/
theorem sparseSet_keys {m : List (Nat × α)} {a : Nat} {x : α} {p : Nat × α} (h : p ∈ sparseSet d a x m) :
    p = (a, x) ∧ x ≠ d ∨ p ∈ m := by
  induction m with
  | nil =>
    simp only [sparseSet] at h
    split at h
    · simp at h
    · simp at h; exact .inl ⟨h, ‹_›⟩
  | cons q m ih =>
    simp only [sparseSet] at h
    split at h
    · split at h
      · exact .inr h
      · rcases List.mem_cons.mp h with h | h
        · exact .inl ⟨h, ‹_›⟩
        · exact .inr h
    · split at h
      · split at h
        · exact .inr (by simp [h])
        · rcases List.mem_cons.mp h with h | h
          · exact .inl ⟨h, ‹_›⟩
          · exact .inr (by simp [h])
      · rcases List.mem_cons.mp h with h | h
        · exact .inr (by simp [h])
        · rcases ih h with h | h
          · exact .inl h
          · exact .inr (by simp [h])

/-- A write keeps the canonical form. -/
theorem sparseSet_wf {m : List (Nat × α)} {a : Nat} {x : α} (h : sparseWf d m) : sparseWf d (sparseSet d a x m) := by
  refine ⟨?_, ?_⟩
  · have hs := h.1
    clear h
    induction m with
    | nil => simp only [sparseSet]; split <;> simp
    | cons q m ih =>
      obtain ⟨hq, hm⟩ := List.pairwise_cons.mp hs
      simp only [sparseSet]
      split
      · split
        · exact hs
        · refine List.pairwise_cons.mpr ⟨?_, hs⟩
          intro p hp
          rcases List.mem_cons.mp hp with hp | hp
          · subst hp; assumption
          · exact Nat.lt_trans ‹_› (hq p hp)
      · split
        · split
          · exact hm
          · refine List.pairwise_cons.mpr ⟨?_, hm⟩
            intro p hp
            have := hq p hp
            show a < p.1
            omega
        · refine List.pairwise_cons.mpr ⟨?_, ih hm⟩
          intro p hp
          rcases sparseSet_keys hp with ⟨hp, -⟩ | hp
          · subst hp; show q.1 < a; omega
          · exact hq p hp
  · intro p hp
    rcases sparseSet_keys hp with ⟨hp, hx⟩ | hp
    · subst hp; exact hx
    · exact h.2 p hp

/-- Read after write: the value at the key written, the old value at every other. -/
theorem sparseGet_set {m : List (Nat × α)} {a b : Nat} {x : α} (h : sparseWf d m) :
    sparseGet d (sparseSet d a x m) b = if b = a then x else sparseGet d m b := by
  obtain ⟨hs, -⟩ := h
  induction m with
  | nil =>
    by_cases hx : x = d <;> by_cases hb : b = a
    · simp [sparseSet, sparseGet, hx, hb]
    · simp [sparseSet, sparseGet, hx, hb]
    · simp [sparseSet, sparseGet, hx, hb]
    · have : a ≠ b := fun e => hb e.symm
      simp [sparseSet, sparseGet, hx, hb, this]
  | cons q m ih =>
    obtain ⟨k, v⟩ := q
    obtain ⟨hq, hm⟩ := List.pairwise_cons.mp hs
    have ih := ih hm
    have below : ∀ c, c ≤ k → sparseGet d m c = d := fun c hc =>
      sparseGet_below fun p hp => Nat.lt_of_le_of_lt hc (hq p hp)
    simp only [sparseSet]
    by_cases hak : a < k
    · by_cases hx : x = d
      · by_cases hb : b = a
        · subst hb
          have : k ≠ b := by omega
          simp [hak, hx, sparseGet, this, below b (by omega)]
        · simp [hak, hx, hb]
      · by_cases hb : b = a
        · simp [hak, hx, hb, sparseGet]
        · have : a ≠ b := fun e => hb e.symm
          simp [hak, hx, hb, sparseGet, this]
    · by_cases hae : a = k
      · subst hae
        by_cases hx : x = d
        · by_cases hb : b = a
          · subst hb; simp [hx, below b (Nat.le_refl _)]
          · have : a ≠ b := fun e => hb e.symm
            simp [hx, hb, sparseGet, this]
        · by_cases hb : b = a
          · simp [hx, hb, sparseGet]
          · have : a ≠ b := fun e => hb e.symm
            simp [hx, hb, sparseGet, this]
      · by_cases hb : b = a
        · subst hb
          have : k ≠ b := fun e => hae e.symm
          simp [hak, hae, sparseGet, this, ih]
        · by_cases hkb : k = b
          · subst hkb; simp [hak, hae, sparseGet, hb]
          · simp [hak, hae, sparseGet, hkb, hb, ih]

/-! ### The store -/

theorem Memory.write_wf {m : Memory} {a : Nat} {b : Byte} (h : Memory.wf m) : Memory.wf (Memory.write m a b) :=
  sparseSet_wf h

theorem Memory.read_write {m : Memory} {a a' : Nat} {b : Byte} (h : Memory.wf m) :
    Memory.read (Memory.write m a b) a' = if a' = a then b else Memory.read m a' :=
  sparseGet_set h

theorem Memory.writeRange_wf {m : Memory} {bs : List Byte} {a : Nat} (h : Memory.wf m) :
    Memory.wf (Memory.writeRange m a bs) := by
  induction bs generalizing m a with
  | nil => exact h
  | cons b bs ih => exact ih (Memory.write_wf h)

/-- A range write changes exactly the bytes of its range. -/
theorem Memory.read_writeRange {m : Memory} {bs : List Byte} {a a' : Nat} (h : Memory.wf m) :
    Memory.read (Memory.writeRange m a bs) a' =
      if a ≤ a' ∧ a' < a + bs.length then bs.getD (a' - a) 0 else Memory.read m a' := by
  induction bs generalizing m a with
  | nil =>
    have : ¬ (a ≤ a' ∧ a' < a + ([] : List Byte).length) := by simp
    rw [if_neg this]; rfl
  | cons b bs ih =>
    rw [Memory.writeRange, ih (Memory.write_wf h), Memory.read_write h]
    simp only [List.length_cons]
    by_cases h1 : a' = a
    · subst h1
      rw [if_neg (by omega), if_pos rfl, if_pos (by omega)]
      simp
    · by_cases h2 : a + 1 ≤ a' ∧ a' < a + 1 + bs.length
      · rw [if_pos h2, if_pos (by omega)]
        obtain ⟨n, hn⟩ : ∃ n, a' - a = n + 1 := ⟨a' - a - 1, by omega⟩
        have : a' - (a + 1) = n := by omega
        rw [hn, this]; rfl
      · rw [if_neg h2, if_neg h1, if_neg (by omega)]

/-- The free image of a whole store is in canonical form. -/
theorem freeImage_wf (draw size : Nat) : Memory.wf (freeImage draw size) := by
  constructor
  · unfold freeImage
    rw [List.pairwise_filterMap]
    refine List.Pairwise.imp ?_ (List.pairwise_lt_range (n := size))
    intro a b hab p hp q hq
    split at hp <;> split at hq <;> simp_all
    obtain rfl := hp; obtain rfl := hq; exact hab
  · intro p hp
    obtain ⟨o, -, ho⟩ := List.mem_filterMap.mp hp
    split at ho
    · simp at ho
    · simp at ho; subst ho; assumption

/-! ### A MediaUnit keeps its contract -/

theorem MediaUnit.wf_iff (u : MediaUnit) :
    u.wf = true ↔ 1 ≤ u.zone0.sectors ∧ 1 ≤ u.zone1.sectors ∧ 1 ≤ u.numSides ∧ u.numSides ≤ 2 ∧
      Memory.wf u.store ∧ sparseWf RecordMeta.initial u.records := by
  simp [MediaUnit.wf, and_assoc]

/-- The layout of the store does not depend on what it holds (R68, R70). -/
@[simp] theorem bytesBefore_store (u : MediaUnit) (m : Memory) (t : Nat) :
    MediaUnit.bytesBefore { u with store := m } t = u.bytesBefore t := by
  induction t with
  | zero => rfl
  | succ t ih => exact congrArg (· + u.trackBytes t) ih

@[simp] theorem storeSize_store (u : MediaUnit) (m : Memory) :
    MediaUnit.storeSize { u with store := m } = u.storeSize :=
  congrArg (u.numSides * ·) (bytesBefore_store u m u.numTracks)

/-- R65: `make_track` changes at most what the store holds; the reference one changes nothing. -/
theorem makeTrack_eq (u : MediaUnit) (draw t : Nat) (side : Bool) :
    u.makeTrack draw t side =
      { u with store := if u.formatInert = true then u.store else freeImage draw u.storeSize } := by
  unfold MediaUnit.makeTrack
  split <;> rfl

@[simp] theorem makeTrack_storeSize (u : MediaUnit) (draw t : Nat) (side : Bool) :
    (u.makeTrack draw t side).storeSize = u.storeSize := by
  rw [makeTrack_eq, storeSize_store]

theorem writeBytes_wf {u : MediaUnit} {draw off : Nat} {bs : List Byte} (h : u.wf = true) :
    (u.writeBytes draw off bs).1.wf = true := by
  rw [MediaUnit.wf_iff] at h
  unfold MediaUnit.writeBytes
  split <;> rw [MediaUnit.wf_iff] <;>
    exact ⟨h.1, h.2.1, h.2.2.1, h.2.2.2.1, Memory.writeRange_wf h.2.2.2.2.1, h.2.2.2.2.2⟩

theorem makeTrack_wf {u : MediaUnit} {draw t : Nat} {side : Bool} (h : u.wf = true) :
    (u.makeTrack draw t side).wf = true := by
  unfold MediaUnit.makeTrack
  split
  · exact h
  · rw [MediaUnit.wf_iff] at h ⊢
    exact ⟨h.1, h.2.1, h.2.2.1, h.2.2.2.1, freeImage_wf _ _, h.2.2.2.2.2⟩

theorem setRecord_wf {u : MediaUnit} {t : Nat} {side : Bool} {sec : Byte} {m : RecordMeta} (h : u.wf = true) :
    (u.setRecord t side sec m).wf = true := by
  rw [MediaUnit.wf_iff] at h ⊢
  exact ⟨h.1, h.2.1, h.2.2.1, h.2.2.2.1, h.2.2.2.2.1, sparseSet_wf h.2.2.2.2.2⟩

theorem writeStoredCrc_wf {u : MediaUnit} {t : Nat} {side : Bool} {sec : Byte} {c : Word16} (h : u.wf = true) :
    (u.writeStoredCrc t side sec c).wf = true := by
  unfold MediaUnit.writeStoredCrc
  split
  · exact setRecord_wf h
  · exact h

theorem markDeleted_wf {u : MediaUnit} {t : Nat} {side : Bool} {sec : Byte} {f : Bool} (h : u.wf = true) :
    (u.markDeleted t side sec f).wf = true := setRecord_wf h

/-- Distinct records have distinct keys. -/
theorem recordKey_inj {t t' : Nat} {side side' : Bool} {sec sec' : Byte}
    (h : recordKey t side sec = recordKey t' side' sec') : t = t' ∧ side = side' ∧ sec = sec' := by
  unfold recordKey at h
  have h1 := sec.isLt
  have h2 := sec'.isLt
  have hs : sec.toNat = sec'.toNat := by omega
  have ht : t * 2 + side.toNat = t' * 2 + side'.toNat := by omega
  cases side <;> cases side' <;> simp at ht
  · exact ⟨ht, rfl, BitVec.eq_of_toNat_eq hs⟩
  · omega
  · omega
  · exact ⟨ht, rfl, BitVec.eq_of_toNat_eq hs⟩

/-- Recording metadata changes exactly the record it names. -/
theorem record_setRecord {u : MediaUnit} {t t' : Nat} {side side' : Bool} {sec sec' : Byte} {m : RecordMeta}
    (h : u.wf = true) :
    (u.setRecord t side sec m).record t' side' sec' =
      if (t', side', sec') = (t, side, sec) then m else u.record t' side' sec' := by
  rw [MediaUnit.wf_iff] at h
  unfold MediaUnit.record MediaUnit.setRecord
  rw [sparseGet_set h.2.2.2.2.2]
  by_cases hk : recordKey t' side' sec' = recordKey t side sec
  · obtain ⟨rfl, rfl, rfl⟩ := recordKey_inj hk
    simp
  · rw [if_neg hk, if_neg]
    rintro ⟨⟩
    exact hk rfl

/-- A unit put back in its place keeps every unit's contract. -/
theorem setUnit_media_wf {s : State} {u : MediaUnit} (h : ∀ x ∈ s.media, x.wf = true) (hu : u.wf = true) :
    ∀ x ∈ (s.setUnit u).media, x.wf = true := by
  intro x hx
  rcases List.mem_or_eq_of_mem_set hx with hx | hx
  · exact h x hx
  · exact hx ▸ hu

/-- The selected unit meets the contract when all do and the drive exists. -/
theorem unit_wf {s : State} (h : ∀ x ∈ s.media, x.wf = true) (hd : s.driveSelect < s.media.length) :
    s.unit.wf = true := by
  apply h
  unfold State.unit
  rw [List.getD_eq_getElem _ _ hd]
  exact List.getElem_mem hd

theorem unit_setUnit {s : State} {u : MediaUnit} (hd : s.driveSelect < s.media.length) : (s.setUnit u).unit = u := by
  unfold State.unit State.setUnit
  simp [List.getD_eq_getElem?_getD, hd]

end Sys2Proof.Laws
end

