-- ==== Sys2Proof/Laws/State.lean ====
section
/-! SUPPORT. One lemma per field per shared update of State, true by rfl: what an update leaves in each field, so that
no later proof unfolds a record update. -/

namespace Sys2Proof.Laws

open Sys2Proof.Machine

/-! ### schedule -/

@[simp] theorem schedule_status (s : State) (k : EventKind) (d : Nat) : (s.schedule k d).status = s.status := rfl
@[simp] theorem schedule_command (s : State) (k : EventKind) (d : Nat) : (s.schedule k d).command = s.command := rfl
@[simp] theorem schedule_track (s : State) (k : EventKind) (d : Nat) : (s.schedule k d).track = s.track := rfl
@[simp] theorem schedule_sector (s : State) (k : EventKind) (d : Nat) : (s.schedule k d).sector = s.sector := rfl
@[simp] theorem schedule_data (s : State) (k : EventKind) (d : Nat) : (s.schedule k d).data = s.data := rfl
@[simp] theorem schedule_irq (s : State) (k : EventKind) (d : Nat) : (s.schedule k d).irq = s.irq := rfl
@[simp] theorem schedule_drq (s : State) (k : EventKind) (d : Nat) : (s.schedule k d).drq = s.drq := rfl
@[simp] theorem schedule_cmdType (s : State) (k : EventKind) (d : Nat) : (s.schedule k d).cmdType = s.cmdType := rfl
@[simp] theorem schedule_phase (s : State) (k : EventKind) (d : Nat) : (s.schedule k d).phase = s.phase := rfl
@[simp] theorem schedule_statusView (s : State) (k : EventKind) (d : Nat) : (s.schedule k d).statusView = s.statusView := rfl
@[simp] theorem schedule_viewWrite (s : State) (k : EventKind) (d : Nat) : (s.schedule k d).viewWrite = s.viewWrite := rfl
@[simp] theorem schedule_physicalTrack (s : State) (k : EventKind) (d : Nat) : (s.schedule k d).physicalTrack = s.physicalTrack := rfl
@[simp] theorem schedule_stepVector (s : State) (k : EventKind) (d : Nat) : (s.schedule k d).stepVector = s.stepVector := rfl
@[simp] theorem schedule_rotationCursor (s : State) (k : EventKind) (d : Nat) : (s.schedule k d).rotationCursor = s.rotationCursor := rfl
@[simp] theorem schedule_settlePending (s : State) (k : EventKind) (d : Nat) : (s.schedule k d).settlePending = s.settlePending := rfl
@[simp] theorem schedule_headEngaged (s : State) (k : EventKind) (d : Nat) : (s.schedule k d).headEngaged = s.headEngaged := rfl
@[simp] theorem schedule_indexCtr (s : State) (k : EventKind) (d : Nat) : (s.schedule k d).indexCtr = s.indexCtr := rfl
@[simp] theorem schedule_intLatch (s : State) (k : EventKind) (d : Nat) : (s.schedule k d).intLatch = s.intLatch := rfl
@[simp] theorem schedule_fiReadyRef (s : State) (k : EventKind) (d : Nat) : (s.schedule k d).fiReadyRef = s.fiReadyRef := rfl
@[simp] theorem schedule_seekTarget (s : State) (k : EventKind) (d : Nat) : (s.schedule k d).seekTarget = s.seekTarget := rfl
@[simp] theorem schedule_driveSelect (s : State) (k : EventKind) (d : Nat) : (s.schedule k d).driveSelect = s.driveSelect := rfl
@[simp] theorem schedule_side (s : State) (k : EventKind) (d : Nat) : (s.schedule k d).side = s.side := rfl
@[simp] theorem schedule_motorOn (s : State) (k : EventKind) (d : Nat) : (s.schedule k d).motorOn = s.motorOn := rfl
@[simp] theorem schedule_xferDir (s : State) (k : EventKind) (d : Nat) : (s.schedule k d).xferDir = s.xferDir := rfl
@[simp] theorem schedule_xferBuf (s : State) (k : EventKind) (d : Nat) : (s.schedule k d).xferBuf = s.xferBuf := rfl
@[simp] theorem schedule_xferPos (s : State) (k : EventKind) (d : Nat) : (s.schedule k d).xferPos = s.xferPos := rfl
@[simp] theorem schedule_xferLen (s : State) (k : EventKind) (d : Nat) : (s.schedule k d).xferLen = s.xferLen := rfl
@[simp] theorem schedule_xferCrcOn (s : State) (k : EventKind) (d : Nat) : (s.schedule k d).xferCrcOn = s.xferCrcOn := rfl
@[simp] theorem schedule_recTrack (s : State) (k : EventKind) (d : Nat) : (s.schedule k d).recTrack = s.recTrack := rfl
@[simp] theorem schedule_recSide (s : State) (k : EventKind) (d : Nat) : (s.schedule k d).recSide = s.recSide := rfl
@[simp] theorem schedule_recSector (s : State) (k : EventKind) (d : Nat) : (s.schedule k d).recSector = s.recSector := rfl
@[simp] theorem schedule_recOffset (s : State) (k : EventKind) (d : Nat) : (s.schedule k d).recOffset = s.recOffset := rfl
@[simp] theorem schedule_crcAcc (s : State) (k : EventKind) (d : Nat) : (s.schedule k d).crcAcc = s.crcAcc := rfl
@[simp] theorem schedule_now (s : State) (k : EventKind) (d : Nat) : (s.schedule k d).now = s.now := rfl
@[simp] theorem schedule_slots (s : State) (k : EventKind) (d : Nat) : (s.schedule k d).slots = s.slots.put k (some ⟨s.now + d, s.cmdType⟩) := rfl
@[simp] theorem schedule_config (s : State) (k : EventKind) (d : Nat) : (s.schedule k d).config = s.config := rfl
@[simp] theorem schedule_media (s : State) (k : EventKind) (d : Nat) : (s.schedule k d).media = s.media := rfl
@[simp] theorem schedule_host (s : State) (k : EventKind) (d : Nat) : (s.schedule k d).host = s.host := rfl
@[simp] theorem schedule_readValue (s : State) (k : EventKind) (d : Nat) : (s.schedule k d).readValue = s.readValue := rfl
@[simp] theorem schedule_draws (s : State) (k : EventKind) (d : Nat) : (s.schedule k d).draws = s.draws := rfl

/-! ### cancel -/

@[simp] theorem cancel_status (s : State) (k : EventKind) : (s.cancel k).status = s.status := rfl
@[simp] theorem cancel_command (s : State) (k : EventKind) : (s.cancel k).command = s.command := rfl
@[simp] theorem cancel_track (s : State) (k : EventKind) : (s.cancel k).track = s.track := rfl
@[simp] theorem cancel_sector (s : State) (k : EventKind) : (s.cancel k).sector = s.sector := rfl
@[simp] theorem cancel_data (s : State) (k : EventKind) : (s.cancel k).data = s.data := rfl
@[simp] theorem cancel_irq (s : State) (k : EventKind) : (s.cancel k).irq = s.irq := rfl
@[simp] theorem cancel_drq (s : State) (k : EventKind) : (s.cancel k).drq = s.drq := rfl
@[simp] theorem cancel_cmdType (s : State) (k : EventKind) : (s.cancel k).cmdType = s.cmdType := rfl
@[simp] theorem cancel_phase (s : State) (k : EventKind) : (s.cancel k).phase = s.phase := rfl
@[simp] theorem cancel_statusView (s : State) (k : EventKind) : (s.cancel k).statusView = s.statusView := rfl
@[simp] theorem cancel_viewWrite (s : State) (k : EventKind) : (s.cancel k).viewWrite = s.viewWrite := rfl
@[simp] theorem cancel_physicalTrack (s : State) (k : EventKind) : (s.cancel k).physicalTrack = s.physicalTrack := rfl
@[simp] theorem cancel_stepVector (s : State) (k : EventKind) : (s.cancel k).stepVector = s.stepVector := rfl
@[simp] theorem cancel_rotationCursor (s : State) (k : EventKind) : (s.cancel k).rotationCursor = s.rotationCursor := rfl
@[simp] theorem cancel_settlePending (s : State) (k : EventKind) : (s.cancel k).settlePending = s.settlePending := rfl
@[simp] theorem cancel_headEngaged (s : State) (k : EventKind) : (s.cancel k).headEngaged = s.headEngaged := rfl
@[simp] theorem cancel_indexCtr (s : State) (k : EventKind) : (s.cancel k).indexCtr = s.indexCtr := rfl
@[simp] theorem cancel_intLatch (s : State) (k : EventKind) : (s.cancel k).intLatch = s.intLatch := rfl
@[simp] theorem cancel_fiReadyRef (s : State) (k : EventKind) : (s.cancel k).fiReadyRef = s.fiReadyRef := rfl
@[simp] theorem cancel_seekTarget (s : State) (k : EventKind) : (s.cancel k).seekTarget = s.seekTarget := rfl
@[simp] theorem cancel_driveSelect (s : State) (k : EventKind) : (s.cancel k).driveSelect = s.driveSelect := rfl
@[simp] theorem cancel_side (s : State) (k : EventKind) : (s.cancel k).side = s.side := rfl
@[simp] theorem cancel_motorOn (s : State) (k : EventKind) : (s.cancel k).motorOn = s.motorOn := rfl
@[simp] theorem cancel_xferDir (s : State) (k : EventKind) : (s.cancel k).xferDir = s.xferDir := rfl
@[simp] theorem cancel_xferBuf (s : State) (k : EventKind) : (s.cancel k).xferBuf = s.xferBuf := rfl
@[simp] theorem cancel_xferPos (s : State) (k : EventKind) : (s.cancel k).xferPos = s.xferPos := rfl
@[simp] theorem cancel_xferLen (s : State) (k : EventKind) : (s.cancel k).xferLen = s.xferLen := rfl
@[simp] theorem cancel_xferCrcOn (s : State) (k : EventKind) : (s.cancel k).xferCrcOn = s.xferCrcOn := rfl
@[simp] theorem cancel_recTrack (s : State) (k : EventKind) : (s.cancel k).recTrack = s.recTrack := rfl
@[simp] theorem cancel_recSide (s : State) (k : EventKind) : (s.cancel k).recSide = s.recSide := rfl
@[simp] theorem cancel_recSector (s : State) (k : EventKind) : (s.cancel k).recSector = s.recSector := rfl
@[simp] theorem cancel_recOffset (s : State) (k : EventKind) : (s.cancel k).recOffset = s.recOffset := rfl
@[simp] theorem cancel_crcAcc (s : State) (k : EventKind) : (s.cancel k).crcAcc = s.crcAcc := rfl
@[simp] theorem cancel_now (s : State) (k : EventKind) : (s.cancel k).now = s.now := rfl
@[simp] theorem cancel_slots (s : State) (k : EventKind) : (s.cancel k).slots = s.slots.put k none := rfl
@[simp] theorem cancel_config (s : State) (k : EventKind) : (s.cancel k).config = s.config := rfl
@[simp] theorem cancel_media (s : State) (k : EventKind) : (s.cancel k).media = s.media := rfl
@[simp] theorem cancel_host (s : State) (k : EventKind) : (s.cancel k).host = s.host := rfl
@[simp] theorem cancel_readValue (s : State) (k : EventKind) : (s.cancel k).readValue = s.readValue := rfl
@[simp] theorem cancel_draws (s : State) (k : EventKind) : (s.cancel k).draws = s.draws := rfl

/-! ### cancelAll -/

@[simp] theorem cancelAll_status (s : State) : (s.cancelAll).status = s.status := rfl
@[simp] theorem cancelAll_command (s : State) : (s.cancelAll).command = s.command := rfl
@[simp] theorem cancelAll_track (s : State) : (s.cancelAll).track = s.track := rfl
@[simp] theorem cancelAll_sector (s : State) : (s.cancelAll).sector = s.sector := rfl
@[simp] theorem cancelAll_data (s : State) : (s.cancelAll).data = s.data := rfl
@[simp] theorem cancelAll_irq (s : State) : (s.cancelAll).irq = s.irq := rfl
@[simp] theorem cancelAll_drq (s : State) : (s.cancelAll).drq = s.drq := rfl
@[simp] theorem cancelAll_cmdType (s : State) : (s.cancelAll).cmdType = s.cmdType := rfl
@[simp] theorem cancelAll_phase (s : State) : (s.cancelAll).phase = s.phase := rfl
@[simp] theorem cancelAll_statusView (s : State) : (s.cancelAll).statusView = s.statusView := rfl
@[simp] theorem cancelAll_viewWrite (s : State) : (s.cancelAll).viewWrite = s.viewWrite := rfl
@[simp] theorem cancelAll_physicalTrack (s : State) : (s.cancelAll).physicalTrack = s.physicalTrack := rfl
@[simp] theorem cancelAll_stepVector (s : State) : (s.cancelAll).stepVector = s.stepVector := rfl
@[simp] theorem cancelAll_rotationCursor (s : State) : (s.cancelAll).rotationCursor = s.rotationCursor := rfl
@[simp] theorem cancelAll_settlePending (s : State) : (s.cancelAll).settlePending = s.settlePending := rfl
@[simp] theorem cancelAll_headEngaged (s : State) : (s.cancelAll).headEngaged = s.headEngaged := rfl
@[simp] theorem cancelAll_indexCtr (s : State) : (s.cancelAll).indexCtr = s.indexCtr := rfl
@[simp] theorem cancelAll_intLatch (s : State) : (s.cancelAll).intLatch = s.intLatch := rfl
@[simp] theorem cancelAll_fiReadyRef (s : State) : (s.cancelAll).fiReadyRef = s.fiReadyRef := rfl
@[simp] theorem cancelAll_seekTarget (s : State) : (s.cancelAll).seekTarget = s.seekTarget := rfl
@[simp] theorem cancelAll_driveSelect (s : State) : (s.cancelAll).driveSelect = s.driveSelect := rfl
@[simp] theorem cancelAll_side (s : State) : (s.cancelAll).side = s.side := rfl
@[simp] theorem cancelAll_motorOn (s : State) : (s.cancelAll).motorOn = s.motorOn := rfl
@[simp] theorem cancelAll_xferDir (s : State) : (s.cancelAll).xferDir = s.xferDir := rfl
@[simp] theorem cancelAll_xferBuf (s : State) : (s.cancelAll).xferBuf = s.xferBuf := rfl
@[simp] theorem cancelAll_xferPos (s : State) : (s.cancelAll).xferPos = s.xferPos := rfl
@[simp] theorem cancelAll_xferLen (s : State) : (s.cancelAll).xferLen = s.xferLen := rfl
@[simp] theorem cancelAll_xferCrcOn (s : State) : (s.cancelAll).xferCrcOn = s.xferCrcOn := rfl
@[simp] theorem cancelAll_recTrack (s : State) : (s.cancelAll).recTrack = s.recTrack := rfl
@[simp] theorem cancelAll_recSide (s : State) : (s.cancelAll).recSide = s.recSide := rfl
@[simp] theorem cancelAll_recSector (s : State) : (s.cancelAll).recSector = s.recSector := rfl
@[simp] theorem cancelAll_recOffset (s : State) : (s.cancelAll).recOffset = s.recOffset := rfl
@[simp] theorem cancelAll_crcAcc (s : State) : (s.cancelAll).crcAcc = s.crcAcc := rfl
@[simp] theorem cancelAll_now (s : State) : (s.cancelAll).now = s.now := rfl
@[simp] theorem cancelAll_slots (s : State) : (s.cancelAll).slots = Slots.empty := rfl
@[simp] theorem cancelAll_config (s : State) : (s.cancelAll).config = s.config := rfl
@[simp] theorem cancelAll_media (s : State) : (s.cancelAll).media = s.media := rfl
@[simp] theorem cancelAll_host (s : State) : (s.cancelAll).host = s.host := rfl
@[simp] theorem cancelAll_readValue (s : State) : (s.cancelAll).readValue = s.readValue := rfl
@[simp] theorem cancelAll_draws (s : State) : (s.cancelAll).draws = s.draws := rfl

/-! ### complete -/

@[simp] theorem complete_status (s : State) : (s.complete).status = setBit s.status bitBusy false := rfl
@[simp] theorem complete_command (s : State) : (s.complete).command = s.command := rfl
@[simp] theorem complete_track (s : State) : (s.complete).track = s.track := rfl
@[simp] theorem complete_sector (s : State) : (s.complete).sector = s.sector := rfl
@[simp] theorem complete_data (s : State) : (s.complete).data = s.data := rfl
@[simp] theorem complete_irq (s : State) : (s.complete).irq = true := rfl
@[simp] theorem complete_drq (s : State) : (s.complete).drq = false := rfl
@[simp] theorem complete_cmdType (s : State) : (s.complete).cmdType = .idle := rfl
@[simp] theorem complete_phase (s : State) : (s.complete).phase = .idle := rfl
@[simp] theorem complete_statusView (s : State) : (s.complete).statusView = s.statusView := rfl
@[simp] theorem complete_viewWrite (s : State) : (s.complete).viewWrite = s.viewWrite := rfl
@[simp] theorem complete_physicalTrack (s : State) : (s.complete).physicalTrack = s.physicalTrack := rfl
@[simp] theorem complete_stepVector (s : State) : (s.complete).stepVector = s.stepVector := rfl
@[simp] theorem complete_rotationCursor (s : State) : (s.complete).rotationCursor = s.rotationCursor := rfl
@[simp] theorem complete_settlePending (s : State) : (s.complete).settlePending = s.settlePending := rfl
@[simp] theorem complete_headEngaged (s : State) : (s.complete).headEngaged = s.headEngaged := rfl
@[simp] theorem complete_indexCtr (s : State) : (s.complete).indexCtr = s.indexCtr := rfl
@[simp] theorem complete_intLatch (s : State) : (s.complete).intLatch = s.intLatch := rfl
@[simp] theorem complete_fiReadyRef (s : State) : (s.complete).fiReadyRef = s.fiReadyRef := rfl
@[simp] theorem complete_seekTarget (s : State) : (s.complete).seekTarget = s.seekTarget := rfl
@[simp] theorem complete_driveSelect (s : State) : (s.complete).driveSelect = s.driveSelect := rfl
@[simp] theorem complete_side (s : State) : (s.complete).side = s.side := rfl
@[simp] theorem complete_motorOn (s : State) : (s.complete).motorOn = s.motorOn := rfl
@[simp] theorem complete_xferDir (s : State) : (s.complete).xferDir = .none := rfl
@[simp] theorem complete_xferBuf (s : State) : (s.complete).xferBuf = s.xferBuf := rfl
@[simp] theorem complete_xferPos (s : State) : (s.complete).xferPos = s.xferPos := rfl
@[simp] theorem complete_xferLen (s : State) : (s.complete).xferLen = s.xferLen := rfl
@[simp] theorem complete_xferCrcOn (s : State) : (s.complete).xferCrcOn = s.xferCrcOn := rfl
@[simp] theorem complete_recTrack (s : State) : (s.complete).recTrack = s.recTrack := rfl
@[simp] theorem complete_recSide (s : State) : (s.complete).recSide = s.recSide := rfl
@[simp] theorem complete_recSector (s : State) : (s.complete).recSector = s.recSector := rfl
@[simp] theorem complete_recOffset (s : State) : (s.complete).recOffset = s.recOffset := rfl
@[simp] theorem complete_crcAcc (s : State) : (s.complete).crcAcc = s.crcAcc := rfl
@[simp] theorem complete_now (s : State) : (s.complete).now = s.now := rfl
@[simp] theorem complete_slots (s : State) : (s.complete).slots = Slots.empty := rfl
@[simp] theorem complete_config (s : State) : (s.complete).config = s.config := rfl
@[simp] theorem complete_media (s : State) : (s.complete).media = s.media := rfl
@[simp] theorem complete_host (s : State) : (s.complete).host = s.host := rfl
@[simp] theorem complete_readValue (s : State) : (s.complete).readValue = s.readValue := rfl
@[simp] theorem complete_draws (s : State) : (s.complete).draws = s.draws := rfl

/-! ### abort -/

@[simp] theorem abort_status (s : State) (e : List ErrorBit) : (s.abort e).status = setBit (setErrorBits s.status e) bitBusy false := rfl
@[simp] theorem abort_command (s : State) (e : List ErrorBit) : (s.abort e).command = s.command := rfl
@[simp] theorem abort_track (s : State) (e : List ErrorBit) : (s.abort e).track = s.track := rfl
@[simp] theorem abort_sector (s : State) (e : List ErrorBit) : (s.abort e).sector = s.sector := rfl
@[simp] theorem abort_data (s : State) (e : List ErrorBit) : (s.abort e).data = s.data := rfl
@[simp] theorem abort_irq (s : State) (e : List ErrorBit) : (s.abort e).irq = true := rfl
@[simp] theorem abort_drq (s : State) (e : List ErrorBit) : (s.abort e).drq = false := rfl
@[simp] theorem abort_cmdType (s : State) (e : List ErrorBit) : (s.abort e).cmdType = .idle := rfl
@[simp] theorem abort_phase (s : State) (e : List ErrorBit) : (s.abort e).phase = .idle := rfl
@[simp] theorem abort_statusView (s : State) (e : List ErrorBit) : (s.abort e).statusView = s.statusView := rfl
@[simp] theorem abort_viewWrite (s : State) (e : List ErrorBit) : (s.abort e).viewWrite = s.viewWrite := rfl
@[simp] theorem abort_physicalTrack (s : State) (e : List ErrorBit) : (s.abort e).physicalTrack = s.physicalTrack := rfl
@[simp] theorem abort_stepVector (s : State) (e : List ErrorBit) : (s.abort e).stepVector = s.stepVector := rfl
@[simp] theorem abort_rotationCursor (s : State) (e : List ErrorBit) : (s.abort e).rotationCursor = s.rotationCursor := rfl
@[simp] theorem abort_settlePending (s : State) (e : List ErrorBit) : (s.abort e).settlePending = s.settlePending := rfl
@[simp] theorem abort_headEngaged (s : State) (e : List ErrorBit) : (s.abort e).headEngaged = s.headEngaged := rfl
@[simp] theorem abort_indexCtr (s : State) (e : List ErrorBit) : (s.abort e).indexCtr = s.indexCtr := rfl
@[simp] theorem abort_intLatch (s : State) (e : List ErrorBit) : (s.abort e).intLatch = s.intLatch := rfl
@[simp] theorem abort_fiReadyRef (s : State) (e : List ErrorBit) : (s.abort e).fiReadyRef = s.fiReadyRef := rfl
@[simp] theorem abort_seekTarget (s : State) (e : List ErrorBit) : (s.abort e).seekTarget = s.seekTarget := rfl
@[simp] theorem abort_driveSelect (s : State) (e : List ErrorBit) : (s.abort e).driveSelect = s.driveSelect := rfl
@[simp] theorem abort_side (s : State) (e : List ErrorBit) : (s.abort e).side = s.side := rfl
@[simp] theorem abort_motorOn (s : State) (e : List ErrorBit) : (s.abort e).motorOn = s.motorOn := rfl
@[simp] theorem abort_xferDir (s : State) (e : List ErrorBit) : (s.abort e).xferDir = .none := rfl
@[simp] theorem abort_xferBuf (s : State) (e : List ErrorBit) : (s.abort e).xferBuf = s.xferBuf := rfl
@[simp] theorem abort_xferPos (s : State) (e : List ErrorBit) : (s.abort e).xferPos = s.xferPos := rfl
@[simp] theorem abort_xferLen (s : State) (e : List ErrorBit) : (s.abort e).xferLen = s.xferLen := rfl
@[simp] theorem abort_xferCrcOn (s : State) (e : List ErrorBit) : (s.abort e).xferCrcOn = s.xferCrcOn := rfl
@[simp] theorem abort_recTrack (s : State) (e : List ErrorBit) : (s.abort e).recTrack = s.recTrack := rfl
@[simp] theorem abort_recSide (s : State) (e : List ErrorBit) : (s.abort e).recSide = s.recSide := rfl
@[simp] theorem abort_recSector (s : State) (e : List ErrorBit) : (s.abort e).recSector = s.recSector := rfl
@[simp] theorem abort_recOffset (s : State) (e : List ErrorBit) : (s.abort e).recOffset = s.recOffset := rfl
@[simp] theorem abort_crcAcc (s : State) (e : List ErrorBit) : (s.abort e).crcAcc = s.crcAcc := rfl
@[simp] theorem abort_now (s : State) (e : List ErrorBit) : (s.abort e).now = s.now := rfl
@[simp] theorem abort_slots (s : State) (e : List ErrorBit) : (s.abort e).slots = Slots.empty := rfl
@[simp] theorem abort_config (s : State) (e : List ErrorBit) : (s.abort e).config = s.config := rfl
@[simp] theorem abort_media (s : State) (e : List ErrorBit) : (s.abort e).media = s.media := rfl
@[simp] theorem abort_host (s : State) (e : List ErrorBit) : (s.abort e).host = s.host := rfl
@[simp] theorem abort_readValue (s : State) (e : List ErrorBit) : (s.abort e).readValue = s.readValue := rfl
@[simp] theorem abort_draws (s : State) (e : List ErrorBit) : (s.abort e).draws = s.draws := rfl

/-! ### accept -/

@[simp] theorem accept_status (s : State) (i : Instr) : (s.accept i).status = s.status := rfl
@[simp] theorem accept_command (s : State) (i : Instr) : (s.accept i).command = encode i := rfl
@[simp] theorem accept_track (s : State) (i : Instr) : (s.accept i).track = s.track := rfl
@[simp] theorem accept_sector (s : State) (i : Instr) : (s.accept i).sector = s.sector := rfl
@[simp] theorem accept_data (s : State) (i : Instr) : (s.accept i).data = s.data := rfl
@[simp] theorem accept_irq (s : State) (i : Instr) : (s.accept i).irq = false := rfl
@[simp] theorem accept_drq (s : State) (i : Instr) : (s.accept i).drq = s.drq := rfl
@[simp] theorem accept_cmdType (s : State) (i : Instr) : (s.accept i).cmdType = s.cmdType := rfl
@[simp] theorem accept_phase (s : State) (i : Instr) : (s.accept i).phase = s.phase := rfl
@[simp] theorem accept_statusView (s : State) (i : Instr) : (s.accept i).statusView = s.statusView := rfl
@[simp] theorem accept_viewWrite (s : State) (i : Instr) : (s.accept i).viewWrite = s.viewWrite := rfl
@[simp] theorem accept_physicalTrack (s : State) (i : Instr) : (s.accept i).physicalTrack = s.physicalTrack := rfl
@[simp] theorem accept_stepVector (s : State) (i : Instr) : (s.accept i).stepVector = s.stepVector := rfl
@[simp] theorem accept_rotationCursor (s : State) (i : Instr) : (s.accept i).rotationCursor = s.rotationCursor := rfl
@[simp] theorem accept_settlePending (s : State) (i : Instr) : (s.accept i).settlePending = s.settlePending := rfl
@[simp] theorem accept_headEngaged (s : State) (i : Instr) : (s.accept i).headEngaged = s.headEngaged := rfl
@[simp] theorem accept_indexCtr (s : State) (i : Instr) : (s.accept i).indexCtr = s.indexCtr := rfl
@[simp] theorem accept_intLatch (s : State) (i : Instr) : (s.accept i).intLatch = s.intLatch := rfl
@[simp] theorem accept_fiReadyRef (s : State) (i : Instr) : (s.accept i).fiReadyRef = s.fiReadyRef := rfl
@[simp] theorem accept_seekTarget (s : State) (i : Instr) : (s.accept i).seekTarget = s.seekTarget := rfl
@[simp] theorem accept_driveSelect (s : State) (i : Instr) : (s.accept i).driveSelect = s.driveSelect := rfl
@[simp] theorem accept_side (s : State) (i : Instr) : (s.accept i).side = s.side := rfl
@[simp] theorem accept_motorOn (s : State) (i : Instr) : (s.accept i).motorOn = s.motorOn := rfl
@[simp] theorem accept_xferDir (s : State) (i : Instr) : (s.accept i).xferDir = s.xferDir := rfl
@[simp] theorem accept_xferBuf (s : State) (i : Instr) : (s.accept i).xferBuf = s.xferBuf := rfl
@[simp] theorem accept_xferPos (s : State) (i : Instr) : (s.accept i).xferPos = s.xferPos := rfl
@[simp] theorem accept_xferLen (s : State) (i : Instr) : (s.accept i).xferLen = s.xferLen := rfl
@[simp] theorem accept_xferCrcOn (s : State) (i : Instr) : (s.accept i).xferCrcOn = s.xferCrcOn := rfl
@[simp] theorem accept_recTrack (s : State) (i : Instr) : (s.accept i).recTrack = s.recTrack := rfl
@[simp] theorem accept_recSide (s : State) (i : Instr) : (s.accept i).recSide = s.recSide := rfl
@[simp] theorem accept_recSector (s : State) (i : Instr) : (s.accept i).recSector = s.recSector := rfl
@[simp] theorem accept_recOffset (s : State) (i : Instr) : (s.accept i).recOffset = s.recOffset := rfl
@[simp] theorem accept_crcAcc (s : State) (i : Instr) : (s.accept i).crcAcc = s.crcAcc := rfl
@[simp] theorem accept_now (s : State) (i : Instr) : (s.accept i).now = s.now := rfl
@[simp] theorem accept_slots (s : State) (i : Instr) : (s.accept i).slots = s.slots := rfl
@[simp] theorem accept_config (s : State) (i : Instr) : (s.accept i).config = s.config := rfl
@[simp] theorem accept_media (s : State) (i : Instr) : (s.accept i).media = s.media := rfl
@[simp] theorem accept_host (s : State) (i : Instr) : (s.accept i).host = s.host := rfl
@[simp] theorem accept_readValue (s : State) (i : Instr) : (s.accept i).readValue = s.readValue := rfl
@[simp] theorem accept_draws (s : State) (i : Instr) : (s.accept i).draws = s.draws := rfl

/-! ### dispatch -/

@[simp] theorem dispatch_status (s : State) (c : CmdType) : (s.dispatch c).status = dispatchStatus s.ready := rfl
@[simp] theorem dispatch_command (s : State) (c : CmdType) : (s.dispatch c).command = s.command := rfl
@[simp] theorem dispatch_track (s : State) (c : CmdType) : (s.dispatch c).track = s.track := rfl
@[simp] theorem dispatch_sector (s : State) (c : CmdType) : (s.dispatch c).sector = s.sector := rfl
@[simp] theorem dispatch_data (s : State) (c : CmdType) : (s.dispatch c).data = s.data := rfl
@[simp] theorem dispatch_irq (s : State) (c : CmdType) : (s.dispatch c).irq = s.irq := rfl
@[simp] theorem dispatch_drq (s : State) (c : CmdType) : (s.dispatch c).drq = false := rfl
@[simp] theorem dispatch_cmdType (s : State) (c : CmdType) : (s.dispatch c).cmdType = c := rfl
@[simp] theorem dispatch_phase (s : State) (c : CmdType) : (s.dispatch c).phase = s.phase := rfl
@[simp] theorem dispatch_statusView (s : State) (c : CmdType) : (s.dispatch c).statusView = s.statusView := rfl
@[simp] theorem dispatch_viewWrite (s : State) (c : CmdType) : (s.dispatch c).viewWrite = s.viewWrite := rfl
@[simp] theorem dispatch_physicalTrack (s : State) (c : CmdType) : (s.dispatch c).physicalTrack = s.physicalTrack := rfl
@[simp] theorem dispatch_stepVector (s : State) (c : CmdType) : (s.dispatch c).stepVector = s.stepVector := rfl
@[simp] theorem dispatch_rotationCursor (s : State) (c : CmdType) : (s.dispatch c).rotationCursor = s.rotationCursor := rfl
@[simp] theorem dispatch_settlePending (s : State) (c : CmdType) : (s.dispatch c).settlePending = s.settlePending := rfl
@[simp] theorem dispatch_headEngaged (s : State) (c : CmdType) : (s.dispatch c).headEngaged = s.headEngaged := rfl
@[simp] theorem dispatch_indexCtr (s : State) (c : CmdType) : (s.dispatch c).indexCtr = s.indexCtr := rfl
@[simp] theorem dispatch_intLatch (s : State) (c : CmdType) : (s.dispatch c).intLatch = s.intLatch := rfl
@[simp] theorem dispatch_fiReadyRef (s : State) (c : CmdType) : (s.dispatch c).fiReadyRef = s.fiReadyRef := rfl
@[simp] theorem dispatch_seekTarget (s : State) (c : CmdType) : (s.dispatch c).seekTarget = s.seekTarget := rfl
@[simp] theorem dispatch_driveSelect (s : State) (c : CmdType) : (s.dispatch c).driveSelect = s.driveSelect := rfl
@[simp] theorem dispatch_side (s : State) (c : CmdType) : (s.dispatch c).side = s.side := rfl
@[simp] theorem dispatch_motorOn (s : State) (c : CmdType) : (s.dispatch c).motorOn = s.motorOn := rfl
@[simp] theorem dispatch_xferDir (s : State) (c : CmdType) : (s.dispatch c).xferDir = .none := rfl
@[simp] theorem dispatch_xferBuf (s : State) (c : CmdType) : (s.dispatch c).xferBuf = s.xferBuf := rfl
@[simp] theorem dispatch_xferPos (s : State) (c : CmdType) : (s.dispatch c).xferPos = s.xferPos := rfl
@[simp] theorem dispatch_xferLen (s : State) (c : CmdType) : (s.dispatch c).xferLen = s.xferLen := rfl
@[simp] theorem dispatch_xferCrcOn (s : State) (c : CmdType) : (s.dispatch c).xferCrcOn = s.xferCrcOn := rfl
@[simp] theorem dispatch_recTrack (s : State) (c : CmdType) : (s.dispatch c).recTrack = s.recTrack := rfl
@[simp] theorem dispatch_recSide (s : State) (c : CmdType) : (s.dispatch c).recSide = s.recSide := rfl
@[simp] theorem dispatch_recSector (s : State) (c : CmdType) : (s.dispatch c).recSector = s.recSector := rfl
@[simp] theorem dispatch_recOffset (s : State) (c : CmdType) : (s.dispatch c).recOffset = s.recOffset := rfl
@[simp] theorem dispatch_crcAcc (s : State) (c : CmdType) : (s.dispatch c).crcAcc = s.crcAcc := rfl
@[simp] theorem dispatch_now (s : State) (c : CmdType) : (s.dispatch c).now = s.now := rfl
@[simp] theorem dispatch_slots (s : State) (c : CmdType) : (s.dispatch c).slots = Slots.empty := rfl
@[simp] theorem dispatch_config (s : State) (c : CmdType) : (s.dispatch c).config = s.config := rfl
@[simp] theorem dispatch_media (s : State) (c : CmdType) : (s.dispatch c).media = s.media := rfl
@[simp] theorem dispatch_host (s : State) (c : CmdType) : (s.dispatch c).host = s.host := rfl
@[simp] theorem dispatch_readValue (s : State) (c : CmdType) : (s.dispatch c).readValue = s.readValue := rfl
@[simp] theorem dispatch_draws (s : State) (c : CmdType) : (s.dispatch c).draws = s.draws := rfl

/-! ### viewTypeI -/

@[simp] theorem viewTypeI_status (s : State) : (s.viewTypeI).status = s.status := rfl
@[simp] theorem viewTypeI_command (s : State) : (s.viewTypeI).command = s.command := rfl
@[simp] theorem viewTypeI_track (s : State) : (s.viewTypeI).track = s.track := rfl
@[simp] theorem viewTypeI_sector (s : State) : (s.viewTypeI).sector = s.sector := rfl
@[simp] theorem viewTypeI_data (s : State) : (s.viewTypeI).data = s.data := rfl
@[simp] theorem viewTypeI_irq (s : State) : (s.viewTypeI).irq = s.irq := rfl
@[simp] theorem viewTypeI_drq (s : State) : (s.viewTypeI).drq = s.drq := rfl
@[simp] theorem viewTypeI_cmdType (s : State) : (s.viewTypeI).cmdType = s.cmdType := rfl
@[simp] theorem viewTypeI_phase (s : State) : (s.viewTypeI).phase = s.phase := rfl
@[simp] theorem viewTypeI_statusView (s : State) : (s.viewTypeI).statusView = .typeI := rfl
@[simp] theorem viewTypeI_viewWrite (s : State) : (s.viewTypeI).viewWrite = s.viewWrite := rfl
@[simp] theorem viewTypeI_physicalTrack (s : State) : (s.viewTypeI).physicalTrack = s.physicalTrack := rfl
@[simp] theorem viewTypeI_stepVector (s : State) : (s.viewTypeI).stepVector = s.stepVector := rfl
@[simp] theorem viewTypeI_rotationCursor (s : State) : (s.viewTypeI).rotationCursor = s.rotationCursor := rfl
@[simp] theorem viewTypeI_settlePending (s : State) : (s.viewTypeI).settlePending = s.settlePending := rfl
@[simp] theorem viewTypeI_headEngaged (s : State) : (s.viewTypeI).headEngaged = s.headEngaged := rfl
@[simp] theorem viewTypeI_indexCtr (s : State) : (s.viewTypeI).indexCtr = s.indexCtr := rfl
@[simp] theorem viewTypeI_intLatch (s : State) : (s.viewTypeI).intLatch = s.intLatch := rfl
@[simp] theorem viewTypeI_fiReadyRef (s : State) : (s.viewTypeI).fiReadyRef = s.fiReadyRef := rfl
@[simp] theorem viewTypeI_seekTarget (s : State) : (s.viewTypeI).seekTarget = s.seekTarget := rfl
@[simp] theorem viewTypeI_driveSelect (s : State) : (s.viewTypeI).driveSelect = s.driveSelect := rfl
@[simp] theorem viewTypeI_side (s : State) : (s.viewTypeI).side = s.side := rfl
@[simp] theorem viewTypeI_motorOn (s : State) : (s.viewTypeI).motorOn = s.motorOn := rfl
@[simp] theorem viewTypeI_xferDir (s : State) : (s.viewTypeI).xferDir = s.xferDir := rfl
@[simp] theorem viewTypeI_xferBuf (s : State) : (s.viewTypeI).xferBuf = s.xferBuf := rfl
@[simp] theorem viewTypeI_xferPos (s : State) : (s.viewTypeI).xferPos = s.xferPos := rfl
@[simp] theorem viewTypeI_xferLen (s : State) : (s.viewTypeI).xferLen = s.xferLen := rfl
@[simp] theorem viewTypeI_xferCrcOn (s : State) : (s.viewTypeI).xferCrcOn = s.xferCrcOn := rfl
@[simp] theorem viewTypeI_recTrack (s : State) : (s.viewTypeI).recTrack = s.recTrack := rfl
@[simp] theorem viewTypeI_recSide (s : State) : (s.viewTypeI).recSide = s.recSide := rfl
@[simp] theorem viewTypeI_recSector (s : State) : (s.viewTypeI).recSector = s.recSector := rfl
@[simp] theorem viewTypeI_recOffset (s : State) : (s.viewTypeI).recOffset = s.recOffset := rfl
@[simp] theorem viewTypeI_crcAcc (s : State) : (s.viewTypeI).crcAcc = s.crcAcc := rfl
@[simp] theorem viewTypeI_now (s : State) : (s.viewTypeI).now = s.now := rfl
@[simp] theorem viewTypeI_slots (s : State) : (s.viewTypeI).slots = s.slots := rfl
@[simp] theorem viewTypeI_config (s : State) : (s.viewTypeI).config = s.config := rfl
@[simp] theorem viewTypeI_media (s : State) : (s.viewTypeI).media = s.media := rfl
@[simp] theorem viewTypeI_host (s : State) : (s.viewTypeI).host = s.host := rfl
@[simp] theorem viewTypeI_readValue (s : State) : (s.viewTypeI).readValue = s.readValue := rfl
@[simp] theorem viewTypeI_draws (s : State) : (s.viewTypeI).draws = s.draws := rfl

/-! ### viewTransfer -/

@[simp] theorem viewTransfer_status (s : State) : (s.viewTransfer).status = s.status := rfl
@[simp] theorem viewTransfer_command (s : State) : (s.viewTransfer).command = s.command := rfl
@[simp] theorem viewTransfer_track (s : State) : (s.viewTransfer).track = s.track := rfl
@[simp] theorem viewTransfer_sector (s : State) : (s.viewTransfer).sector = s.sector := rfl
@[simp] theorem viewTransfer_data (s : State) : (s.viewTransfer).data = s.data := rfl
@[simp] theorem viewTransfer_irq (s : State) : (s.viewTransfer).irq = s.irq := rfl
@[simp] theorem viewTransfer_drq (s : State) : (s.viewTransfer).drq = s.drq := rfl
@[simp] theorem viewTransfer_cmdType (s : State) : (s.viewTransfer).cmdType = s.cmdType := rfl
@[simp] theorem viewTransfer_phase (s : State) : (s.viewTransfer).phase = s.phase := rfl
@[simp] theorem viewTransfer_statusView (s : State) : (s.viewTransfer).statusView = .typeIIandIII := rfl
@[simp] theorem viewTransfer_viewWrite (s : State) : (s.viewTransfer).viewWrite = s.cmdType.isWrite := rfl
@[simp] theorem viewTransfer_physicalTrack (s : State) : (s.viewTransfer).physicalTrack = s.physicalTrack := rfl
@[simp] theorem viewTransfer_stepVector (s : State) : (s.viewTransfer).stepVector = s.stepVector := rfl
@[simp] theorem viewTransfer_rotationCursor (s : State) : (s.viewTransfer).rotationCursor = s.rotationCursor := rfl
@[simp] theorem viewTransfer_settlePending (s : State) : (s.viewTransfer).settlePending = s.settlePending := rfl
@[simp] theorem viewTransfer_headEngaged (s : State) : (s.viewTransfer).headEngaged = s.headEngaged := rfl
@[simp] theorem viewTransfer_indexCtr (s : State) : (s.viewTransfer).indexCtr = s.indexCtr := rfl
@[simp] theorem viewTransfer_intLatch (s : State) : (s.viewTransfer).intLatch = s.intLatch := rfl
@[simp] theorem viewTransfer_fiReadyRef (s : State) : (s.viewTransfer).fiReadyRef = s.fiReadyRef := rfl
@[simp] theorem viewTransfer_seekTarget (s : State) : (s.viewTransfer).seekTarget = s.seekTarget := rfl
@[simp] theorem viewTransfer_driveSelect (s : State) : (s.viewTransfer).driveSelect = s.driveSelect := rfl
@[simp] theorem viewTransfer_side (s : State) : (s.viewTransfer).side = s.side := rfl
@[simp] theorem viewTransfer_motorOn (s : State) : (s.viewTransfer).motorOn = s.motorOn := rfl
@[simp] theorem viewTransfer_xferDir (s : State) : (s.viewTransfer).xferDir = s.xferDir := rfl
@[simp] theorem viewTransfer_xferBuf (s : State) : (s.viewTransfer).xferBuf = s.xferBuf := rfl
@[simp] theorem viewTransfer_xferPos (s : State) : (s.viewTransfer).xferPos = s.xferPos := rfl
@[simp] theorem viewTransfer_xferLen (s : State) : (s.viewTransfer).xferLen = s.xferLen := rfl
@[simp] theorem viewTransfer_xferCrcOn (s : State) : (s.viewTransfer).xferCrcOn = s.xferCrcOn := rfl
@[simp] theorem viewTransfer_recTrack (s : State) : (s.viewTransfer).recTrack = s.recTrack := rfl
@[simp] theorem viewTransfer_recSide (s : State) : (s.viewTransfer).recSide = s.recSide := rfl
@[simp] theorem viewTransfer_recSector (s : State) : (s.viewTransfer).recSector = s.recSector := rfl
@[simp] theorem viewTransfer_recOffset (s : State) : (s.viewTransfer).recOffset = s.recOffset := rfl
@[simp] theorem viewTransfer_crcAcc (s : State) : (s.viewTransfer).crcAcc = s.crcAcc := rfl
@[simp] theorem viewTransfer_now (s : State) : (s.viewTransfer).now = s.now := rfl
@[simp] theorem viewTransfer_slots (s : State) : (s.viewTransfer).slots = s.slots := rfl
@[simp] theorem viewTransfer_config (s : State) : (s.viewTransfer).config = s.config := rfl
@[simp] theorem viewTransfer_media (s : State) : (s.viewTransfer).media = s.media := rfl
@[simp] theorem viewTransfer_host (s : State) : (s.viewTransfer).host = s.host := rfl
@[simp] theorem viewTransfer_readValue (s : State) : (s.viewTransfer).readValue = s.readValue := rfl
@[simp] theorem viewTransfer_draws (s : State) : (s.viewTransfer).draws = s.draws := rfl

/-! ### setUnit -/

@[simp] theorem setUnit_status (s : State) (u : MediaUnit) : (s.setUnit u).status = s.status := rfl
@[simp] theorem setUnit_command (s : State) (u : MediaUnit) : (s.setUnit u).command = s.command := rfl
@[simp] theorem setUnit_track (s : State) (u : MediaUnit) : (s.setUnit u).track = s.track := rfl
@[simp] theorem setUnit_sector (s : State) (u : MediaUnit) : (s.setUnit u).sector = s.sector := rfl
@[simp] theorem setUnit_data (s : State) (u : MediaUnit) : (s.setUnit u).data = s.data := rfl
@[simp] theorem setUnit_irq (s : State) (u : MediaUnit) : (s.setUnit u).irq = s.irq := rfl
@[simp] theorem setUnit_drq (s : State) (u : MediaUnit) : (s.setUnit u).drq = s.drq := rfl
@[simp] theorem setUnit_cmdType (s : State) (u : MediaUnit) : (s.setUnit u).cmdType = s.cmdType := rfl
@[simp] theorem setUnit_phase (s : State) (u : MediaUnit) : (s.setUnit u).phase = s.phase := rfl
@[simp] theorem setUnit_statusView (s : State) (u : MediaUnit) : (s.setUnit u).statusView = s.statusView := rfl
@[simp] theorem setUnit_viewWrite (s : State) (u : MediaUnit) : (s.setUnit u).viewWrite = s.viewWrite := rfl
@[simp] theorem setUnit_physicalTrack (s : State) (u : MediaUnit) : (s.setUnit u).physicalTrack = s.physicalTrack := rfl
@[simp] theorem setUnit_stepVector (s : State) (u : MediaUnit) : (s.setUnit u).stepVector = s.stepVector := rfl
@[simp] theorem setUnit_rotationCursor (s : State) (u : MediaUnit) : (s.setUnit u).rotationCursor = s.rotationCursor := rfl
@[simp] theorem setUnit_settlePending (s : State) (u : MediaUnit) : (s.setUnit u).settlePending = s.settlePending := rfl
@[simp] theorem setUnit_headEngaged (s : State) (u : MediaUnit) : (s.setUnit u).headEngaged = s.headEngaged := rfl
@[simp] theorem setUnit_indexCtr (s : State) (u : MediaUnit) : (s.setUnit u).indexCtr = s.indexCtr := rfl
@[simp] theorem setUnit_intLatch (s : State) (u : MediaUnit) : (s.setUnit u).intLatch = s.intLatch := rfl
@[simp] theorem setUnit_fiReadyRef (s : State) (u : MediaUnit) : (s.setUnit u).fiReadyRef = s.fiReadyRef := rfl
@[simp] theorem setUnit_seekTarget (s : State) (u : MediaUnit) : (s.setUnit u).seekTarget = s.seekTarget := rfl
@[simp] theorem setUnit_driveSelect (s : State) (u : MediaUnit) : (s.setUnit u).driveSelect = s.driveSelect := rfl
@[simp] theorem setUnit_side (s : State) (u : MediaUnit) : (s.setUnit u).side = s.side := rfl
@[simp] theorem setUnit_motorOn (s : State) (u : MediaUnit) : (s.setUnit u).motorOn = s.motorOn := rfl
@[simp] theorem setUnit_xferDir (s : State) (u : MediaUnit) : (s.setUnit u).xferDir = s.xferDir := rfl
@[simp] theorem setUnit_xferBuf (s : State) (u : MediaUnit) : (s.setUnit u).xferBuf = s.xferBuf := rfl
@[simp] theorem setUnit_xferPos (s : State) (u : MediaUnit) : (s.setUnit u).xferPos = s.xferPos := rfl
@[simp] theorem setUnit_xferLen (s : State) (u : MediaUnit) : (s.setUnit u).xferLen = s.xferLen := rfl
@[simp] theorem setUnit_xferCrcOn (s : State) (u : MediaUnit) : (s.setUnit u).xferCrcOn = s.xferCrcOn := rfl
@[simp] theorem setUnit_recTrack (s : State) (u : MediaUnit) : (s.setUnit u).recTrack = s.recTrack := rfl
@[simp] theorem setUnit_recSide (s : State) (u : MediaUnit) : (s.setUnit u).recSide = s.recSide := rfl
@[simp] theorem setUnit_recSector (s : State) (u : MediaUnit) : (s.setUnit u).recSector = s.recSector := rfl
@[simp] theorem setUnit_recOffset (s : State) (u : MediaUnit) : (s.setUnit u).recOffset = s.recOffset := rfl
@[simp] theorem setUnit_crcAcc (s : State) (u : MediaUnit) : (s.setUnit u).crcAcc = s.crcAcc := rfl
@[simp] theorem setUnit_now (s : State) (u : MediaUnit) : (s.setUnit u).now = s.now := rfl
@[simp] theorem setUnit_slots (s : State) (u : MediaUnit) : (s.setUnit u).slots = s.slots := rfl
@[simp] theorem setUnit_config (s : State) (u : MediaUnit) : (s.setUnit u).config = s.config := rfl
@[simp] theorem setUnit_media (s : State) (u : MediaUnit) : (s.setUnit u).media = s.media.set s.driveSelect u := rfl
@[simp] theorem setUnit_host (s : State) (u : MediaUnit) : (s.setUnit u).host = s.host := rfl
@[simp] theorem setUnit_readValue (s : State) (u : MediaUnit) : (s.setUnit u).readValue = s.readValue := rfl
@[simp] theorem setUnit_draws (s : State) (u : MediaUnit) : (s.setUnit u).draws = s.draws := rfl

/-! ### acknowledge -/

@[simp] theorem acknowledge_status (s : State) : (s.acknowledge).status = s.status := rfl
@[simp] theorem acknowledge_command (s : State) : (s.acknowledge).command = s.command := rfl
@[simp] theorem acknowledge_track (s : State) : (s.acknowledge).track = s.track := rfl
@[simp] theorem acknowledge_sector (s : State) : (s.acknowledge).sector = s.sector := rfl
@[simp] theorem acknowledge_data (s : State) : (s.acknowledge).data = s.data := rfl
@[simp] theorem acknowledge_irq (s : State) : (s.acknowledge).irq = false := rfl
@[simp] theorem acknowledge_drq (s : State) : (s.acknowledge).drq = s.drq := rfl
@[simp] theorem acknowledge_cmdType (s : State) : (s.acknowledge).cmdType = s.cmdType := rfl
@[simp] theorem acknowledge_phase (s : State) : (s.acknowledge).phase = s.phase := rfl
@[simp] theorem acknowledge_statusView (s : State) : (s.acknowledge).statusView = s.statusView := rfl
@[simp] theorem acknowledge_viewWrite (s : State) : (s.acknowledge).viewWrite = s.viewWrite := rfl
@[simp] theorem acknowledge_physicalTrack (s : State) : (s.acknowledge).physicalTrack = s.physicalTrack := rfl
@[simp] theorem acknowledge_stepVector (s : State) : (s.acknowledge).stepVector = s.stepVector := rfl
@[simp] theorem acknowledge_rotationCursor (s : State) : (s.acknowledge).rotationCursor = s.rotationCursor := rfl
@[simp] theorem acknowledge_settlePending (s : State) : (s.acknowledge).settlePending = s.settlePending := rfl
@[simp] theorem acknowledge_headEngaged (s : State) : (s.acknowledge).headEngaged = s.headEngaged := rfl
@[simp] theorem acknowledge_indexCtr (s : State) : (s.acknowledge).indexCtr = s.indexCtr := rfl
@[simp] theorem acknowledge_intLatch (s : State) : (s.acknowledge).intLatch = s.intLatch := rfl
@[simp] theorem acknowledge_fiReadyRef (s : State) : (s.acknowledge).fiReadyRef = s.fiReadyRef := rfl
@[simp] theorem acknowledge_seekTarget (s : State) : (s.acknowledge).seekTarget = s.seekTarget := rfl
@[simp] theorem acknowledge_driveSelect (s : State) : (s.acknowledge).driveSelect = s.driveSelect := rfl
@[simp] theorem acknowledge_side (s : State) : (s.acknowledge).side = s.side := rfl
@[simp] theorem acknowledge_motorOn (s : State) : (s.acknowledge).motorOn = s.motorOn := rfl
@[simp] theorem acknowledge_xferDir (s : State) : (s.acknowledge).xferDir = s.xferDir := rfl
@[simp] theorem acknowledge_xferBuf (s : State) : (s.acknowledge).xferBuf = s.xferBuf := rfl
@[simp] theorem acknowledge_xferPos (s : State) : (s.acknowledge).xferPos = s.xferPos := rfl
@[simp] theorem acknowledge_xferLen (s : State) : (s.acknowledge).xferLen = s.xferLen := rfl
@[simp] theorem acknowledge_xferCrcOn (s : State) : (s.acknowledge).xferCrcOn = s.xferCrcOn := rfl
@[simp] theorem acknowledge_recTrack (s : State) : (s.acknowledge).recTrack = s.recTrack := rfl
@[simp] theorem acknowledge_recSide (s : State) : (s.acknowledge).recSide = s.recSide := rfl
@[simp] theorem acknowledge_recSector (s : State) : (s.acknowledge).recSector = s.recSector := rfl
@[simp] theorem acknowledge_recOffset (s : State) : (s.acknowledge).recOffset = s.recOffset := rfl
@[simp] theorem acknowledge_crcAcc (s : State) : (s.acknowledge).crcAcc = s.crcAcc := rfl
@[simp] theorem acknowledge_now (s : State) : (s.acknowledge).now = s.now := rfl
@[simp] theorem acknowledge_slots (s : State) : (s.acknowledge).slots = s.slots := rfl
@[simp] theorem acknowledge_config (s : State) : (s.acknowledge).config = s.config := rfl
@[simp] theorem acknowledge_media (s : State) : (s.acknowledge).media = s.media := rfl
@[simp] theorem acknowledge_host (s : State) : (s.acknowledge).host = s.host := rfl
@[simp] theorem acknowledge_readValue (s : State) : (s.acknowledge).readValue = s.readValue := rfl
@[simp] theorem acknowledge_draws (s : State) : (s.acknowledge).draws = s.draws := rfl

/-! ### crcInit -/

@[simp] theorem crcInit_status (s : State) : (s.crcInit).status = s.status := rfl
@[simp] theorem crcInit_command (s : State) : (s.crcInit).command = s.command := rfl
@[simp] theorem crcInit_track (s : State) : (s.crcInit).track = s.track := rfl
@[simp] theorem crcInit_sector (s : State) : (s.crcInit).sector = s.sector := rfl
@[simp] theorem crcInit_data (s : State) : (s.crcInit).data = s.data := rfl
@[simp] theorem crcInit_irq (s : State) : (s.crcInit).irq = s.irq := rfl
@[simp] theorem crcInit_drq (s : State) : (s.crcInit).drq = s.drq := rfl
@[simp] theorem crcInit_cmdType (s : State) : (s.crcInit).cmdType = s.cmdType := rfl
@[simp] theorem crcInit_phase (s : State) : (s.crcInit).phase = s.phase := rfl
@[simp] theorem crcInit_statusView (s : State) : (s.crcInit).statusView = s.statusView := rfl
@[simp] theorem crcInit_viewWrite (s : State) : (s.crcInit).viewWrite = s.viewWrite := rfl
@[simp] theorem crcInit_physicalTrack (s : State) : (s.crcInit).physicalTrack = s.physicalTrack := rfl
@[simp] theorem crcInit_stepVector (s : State) : (s.crcInit).stepVector = s.stepVector := rfl
@[simp] theorem crcInit_rotationCursor (s : State) : (s.crcInit).rotationCursor = s.rotationCursor := rfl
@[simp] theorem crcInit_settlePending (s : State) : (s.crcInit).settlePending = s.settlePending := rfl
@[simp] theorem crcInit_headEngaged (s : State) : (s.crcInit).headEngaged = s.headEngaged := rfl
@[simp] theorem crcInit_indexCtr (s : State) : (s.crcInit).indexCtr = s.indexCtr := rfl
@[simp] theorem crcInit_intLatch (s : State) : (s.crcInit).intLatch = s.intLatch := rfl
@[simp] theorem crcInit_fiReadyRef (s : State) : (s.crcInit).fiReadyRef = s.fiReadyRef := rfl
@[simp] theorem crcInit_seekTarget (s : State) : (s.crcInit).seekTarget = s.seekTarget := rfl
@[simp] theorem crcInit_driveSelect (s : State) : (s.crcInit).driveSelect = s.driveSelect := rfl
@[simp] theorem crcInit_side (s : State) : (s.crcInit).side = s.side := rfl
@[simp] theorem crcInit_motorOn (s : State) : (s.crcInit).motorOn = s.motorOn := rfl
@[simp] theorem crcInit_xferDir (s : State) : (s.crcInit).xferDir = s.xferDir := rfl
@[simp] theorem crcInit_xferBuf (s : State) : (s.crcInit).xferBuf = s.xferBuf := rfl
@[simp] theorem crcInit_xferPos (s : State) : (s.crcInit).xferPos = s.xferPos := rfl
@[simp] theorem crcInit_xferLen (s : State) : (s.crcInit).xferLen = s.xferLen := rfl
@[simp] theorem crcInit_xferCrcOn (s : State) : (s.crcInit).xferCrcOn = s.xferCrcOn := rfl
@[simp] theorem crcInit_recTrack (s : State) : (s.crcInit).recTrack = s.recTrack := rfl
@[simp] theorem crcInit_recSide (s : State) : (s.crcInit).recSide = s.recSide := rfl
@[simp] theorem crcInit_recSector (s : State) : (s.crcInit).recSector = s.recSector := rfl
@[simp] theorem crcInit_recOffset (s : State) : (s.crcInit).recOffset = s.recOffset := rfl
@[simp] theorem crcInit_crcAcc (s : State) : (s.crcInit).crcAcc = crcSeed := rfl
@[simp] theorem crcInit_now (s : State) : (s.crcInit).now = s.now := rfl
@[simp] theorem crcInit_slots (s : State) : (s.crcInit).slots = s.slots := rfl
@[simp] theorem crcInit_config (s : State) : (s.crcInit).config = s.config := rfl
@[simp] theorem crcInit_media (s : State) : (s.crcInit).media = s.media := rfl
@[simp] theorem crcInit_host (s : State) : (s.crcInit).host = s.host := rfl
@[simp] theorem crcInit_readValue (s : State) : (s.crcInit).readValue = s.readValue := rfl
@[simp] theorem crcInit_draws (s : State) : (s.crcInit).draws = s.draws := rfl

/-! ### crcFeed -/

@[simp] theorem crcFeed_status (s : State) (b : Byte) : (s.crcFeed b).status = s.status := rfl
@[simp] theorem crcFeed_command (s : State) (b : Byte) : (s.crcFeed b).command = s.command := rfl
@[simp] theorem crcFeed_track (s : State) (b : Byte) : (s.crcFeed b).track = s.track := rfl
@[simp] theorem crcFeed_sector (s : State) (b : Byte) : (s.crcFeed b).sector = s.sector := rfl
@[simp] theorem crcFeed_data (s : State) (b : Byte) : (s.crcFeed b).data = s.data := rfl
@[simp] theorem crcFeed_irq (s : State) (b : Byte) : (s.crcFeed b).irq = s.irq := rfl
@[simp] theorem crcFeed_drq (s : State) (b : Byte) : (s.crcFeed b).drq = s.drq := rfl
@[simp] theorem crcFeed_cmdType (s : State) (b : Byte) : (s.crcFeed b).cmdType = s.cmdType := rfl
@[simp] theorem crcFeed_phase (s : State) (b : Byte) : (s.crcFeed b).phase = s.phase := rfl
@[simp] theorem crcFeed_statusView (s : State) (b : Byte) : (s.crcFeed b).statusView = s.statusView := rfl
@[simp] theorem crcFeed_viewWrite (s : State) (b : Byte) : (s.crcFeed b).viewWrite = s.viewWrite := rfl
@[simp] theorem crcFeed_physicalTrack (s : State) (b : Byte) : (s.crcFeed b).physicalTrack = s.physicalTrack := rfl
@[simp] theorem crcFeed_stepVector (s : State) (b : Byte) : (s.crcFeed b).stepVector = s.stepVector := rfl
@[simp] theorem crcFeed_rotationCursor (s : State) (b : Byte) : (s.crcFeed b).rotationCursor = s.rotationCursor := rfl
@[simp] theorem crcFeed_settlePending (s : State) (b : Byte) : (s.crcFeed b).settlePending = s.settlePending := rfl
@[simp] theorem crcFeed_headEngaged (s : State) (b : Byte) : (s.crcFeed b).headEngaged = s.headEngaged := rfl
@[simp] theorem crcFeed_indexCtr (s : State) (b : Byte) : (s.crcFeed b).indexCtr = s.indexCtr := rfl
@[simp] theorem crcFeed_intLatch (s : State) (b : Byte) : (s.crcFeed b).intLatch = s.intLatch := rfl
@[simp] theorem crcFeed_fiReadyRef (s : State) (b : Byte) : (s.crcFeed b).fiReadyRef = s.fiReadyRef := rfl
@[simp] theorem crcFeed_seekTarget (s : State) (b : Byte) : (s.crcFeed b).seekTarget = s.seekTarget := rfl
@[simp] theorem crcFeed_driveSelect (s : State) (b : Byte) : (s.crcFeed b).driveSelect = s.driveSelect := rfl
@[simp] theorem crcFeed_side (s : State) (b : Byte) : (s.crcFeed b).side = s.side := rfl
@[simp] theorem crcFeed_motorOn (s : State) (b : Byte) : (s.crcFeed b).motorOn = s.motorOn := rfl
@[simp] theorem crcFeed_xferDir (s : State) (b : Byte) : (s.crcFeed b).xferDir = s.xferDir := rfl
@[simp] theorem crcFeed_xferBuf (s : State) (b : Byte) : (s.crcFeed b).xferBuf = s.xferBuf := rfl
@[simp] theorem crcFeed_xferPos (s : State) (b : Byte) : (s.crcFeed b).xferPos = s.xferPos := rfl
@[simp] theorem crcFeed_xferLen (s : State) (b : Byte) : (s.crcFeed b).xferLen = s.xferLen := rfl
@[simp] theorem crcFeed_xferCrcOn (s : State) (b : Byte) : (s.crcFeed b).xferCrcOn = s.xferCrcOn := rfl
@[simp] theorem crcFeed_recTrack (s : State) (b : Byte) : (s.crcFeed b).recTrack = s.recTrack := rfl
@[simp] theorem crcFeed_recSide (s : State) (b : Byte) : (s.crcFeed b).recSide = s.recSide := rfl
@[simp] theorem crcFeed_recSector (s : State) (b : Byte) : (s.crcFeed b).recSector = s.recSector := rfl
@[simp] theorem crcFeed_recOffset (s : State) (b : Byte) : (s.crcFeed b).recOffset = s.recOffset := rfl
@[simp] theorem crcFeed_crcAcc (s : State) (b : Byte) : (s.crcFeed b).crcAcc = crcStep s.crcAcc b := rfl
@[simp] theorem crcFeed_now (s : State) (b : Byte) : (s.crcFeed b).now = s.now := rfl
@[simp] theorem crcFeed_slots (s : State) (b : Byte) : (s.crcFeed b).slots = s.slots := rfl
@[simp] theorem crcFeed_config (s : State) (b : Byte) : (s.crcFeed b).config = s.config := rfl
@[simp] theorem crcFeed_media (s : State) (b : Byte) : (s.crcFeed b).media = s.media := rfl
@[simp] theorem crcFeed_host (s : State) (b : Byte) : (s.crcFeed b).host = s.host := rfl
@[simp] theorem crcFeed_readValue (s : State) (b : Byte) : (s.crcFeed b).readValue = s.readValue := rfl
@[simp] theorem crcFeed_draws (s : State) (b : Byte) : (s.crcFeed b).draws = s.draws := rfl

/-! ### setStatusBit -/

@[simp] theorem setStatusBit_status (s : State) (i : Nat) (b : Bool) : (s.setStatusBit i b).status = setBit s.status i b := rfl
@[simp] theorem setStatusBit_command (s : State) (i : Nat) (b : Bool) : (s.setStatusBit i b).command = s.command := rfl
@[simp] theorem setStatusBit_track (s : State) (i : Nat) (b : Bool) : (s.setStatusBit i b).track = s.track := rfl
@[simp] theorem setStatusBit_sector (s : State) (i : Nat) (b : Bool) : (s.setStatusBit i b).sector = s.sector := rfl
@[simp] theorem setStatusBit_data (s : State) (i : Nat) (b : Bool) : (s.setStatusBit i b).data = s.data := rfl
@[simp] theorem setStatusBit_irq (s : State) (i : Nat) (b : Bool) : (s.setStatusBit i b).irq = s.irq := rfl
@[simp] theorem setStatusBit_drq (s : State) (i : Nat) (b : Bool) : (s.setStatusBit i b).drq = s.drq := rfl
@[simp] theorem setStatusBit_cmdType (s : State) (i : Nat) (b : Bool) : (s.setStatusBit i b).cmdType = s.cmdType := rfl
@[simp] theorem setStatusBit_phase (s : State) (i : Nat) (b : Bool) : (s.setStatusBit i b).phase = s.phase := rfl
@[simp] theorem setStatusBit_statusView (s : State) (i : Nat) (b : Bool) : (s.setStatusBit i b).statusView = s.statusView := rfl
@[simp] theorem setStatusBit_viewWrite (s : State) (i : Nat) (b : Bool) : (s.setStatusBit i b).viewWrite = s.viewWrite := rfl
@[simp] theorem setStatusBit_physicalTrack (s : State) (i : Nat) (b : Bool) : (s.setStatusBit i b).physicalTrack = s.physicalTrack := rfl
@[simp] theorem setStatusBit_stepVector (s : State) (i : Nat) (b : Bool) : (s.setStatusBit i b).stepVector = s.stepVector := rfl
@[simp] theorem setStatusBit_rotationCursor (s : State) (i : Nat) (b : Bool) : (s.setStatusBit i b).rotationCursor = s.rotationCursor := rfl
@[simp] theorem setStatusBit_settlePending (s : State) (i : Nat) (b : Bool) : (s.setStatusBit i b).settlePending = s.settlePending := rfl
@[simp] theorem setStatusBit_headEngaged (s : State) (i : Nat) (b : Bool) : (s.setStatusBit i b).headEngaged = s.headEngaged := rfl
@[simp] theorem setStatusBit_indexCtr (s : State) (i : Nat) (b : Bool) : (s.setStatusBit i b).indexCtr = s.indexCtr := rfl
@[simp] theorem setStatusBit_intLatch (s : State) (i : Nat) (b : Bool) : (s.setStatusBit i b).intLatch = s.intLatch := rfl
@[simp] theorem setStatusBit_fiReadyRef (s : State) (i : Nat) (b : Bool) : (s.setStatusBit i b).fiReadyRef = s.fiReadyRef := rfl
@[simp] theorem setStatusBit_seekTarget (s : State) (i : Nat) (b : Bool) : (s.setStatusBit i b).seekTarget = s.seekTarget := rfl
@[simp] theorem setStatusBit_driveSelect (s : State) (i : Nat) (b : Bool) : (s.setStatusBit i b).driveSelect = s.driveSelect := rfl
@[simp] theorem setStatusBit_side (s : State) (i : Nat) (b : Bool) : (s.setStatusBit i b).side = s.side := rfl
@[simp] theorem setStatusBit_motorOn (s : State) (i : Nat) (b : Bool) : (s.setStatusBit i b).motorOn = s.motorOn := rfl
@[simp] theorem setStatusBit_xferDir (s : State) (i : Nat) (b : Bool) : (s.setStatusBit i b).xferDir = s.xferDir := rfl
@[simp] theorem setStatusBit_xferBuf (s : State) (i : Nat) (b : Bool) : (s.setStatusBit i b).xferBuf = s.xferBuf := rfl
@[simp] theorem setStatusBit_xferPos (s : State) (i : Nat) (b : Bool) : (s.setStatusBit i b).xferPos = s.xferPos := rfl
@[simp] theorem setStatusBit_xferLen (s : State) (i : Nat) (b : Bool) : (s.setStatusBit i b).xferLen = s.xferLen := rfl
@[simp] theorem setStatusBit_xferCrcOn (s : State) (i : Nat) (b : Bool) : (s.setStatusBit i b).xferCrcOn = s.xferCrcOn := rfl
@[simp] theorem setStatusBit_recTrack (s : State) (i : Nat) (b : Bool) : (s.setStatusBit i b).recTrack = s.recTrack := rfl
@[simp] theorem setStatusBit_recSide (s : State) (i : Nat) (b : Bool) : (s.setStatusBit i b).recSide = s.recSide := rfl
@[simp] theorem setStatusBit_recSector (s : State) (i : Nat) (b : Bool) : (s.setStatusBit i b).recSector = s.recSector := rfl
@[simp] theorem setStatusBit_recOffset (s : State) (i : Nat) (b : Bool) : (s.setStatusBit i b).recOffset = s.recOffset := rfl
@[simp] theorem setStatusBit_crcAcc (s : State) (i : Nat) (b : Bool) : (s.setStatusBit i b).crcAcc = s.crcAcc := rfl
@[simp] theorem setStatusBit_now (s : State) (i : Nat) (b : Bool) : (s.setStatusBit i b).now = s.now := rfl
@[simp] theorem setStatusBit_slots (s : State) (i : Nat) (b : Bool) : (s.setStatusBit i b).slots = s.slots := rfl
@[simp] theorem setStatusBit_config (s : State) (i : Nat) (b : Bool) : (s.setStatusBit i b).config = s.config := rfl
@[simp] theorem setStatusBit_media (s : State) (i : Nat) (b : Bool) : (s.setStatusBit i b).media = s.media := rfl
@[simp] theorem setStatusBit_host (s : State) (i : Nat) (b : Bool) : (s.setStatusBit i b).host = s.host := rfl
@[simp] theorem setStatusBit_readValue (s : State) (i : Nat) (b : Bool) : (s.setStatusBit i b).readValue = s.readValue := rfl
@[simp] theorem setStatusBit_draws (s : State) (i : Nat) (b : Bool) : (s.setStatusBit i b).draws = s.draws := rfl

/-! ### The derived readings of a state that the updates leave alone -/

@[simp] theorem schedule_unit (s : State) (k : EventKind) (d : Nat) : (s.schedule k d).unit = s.unit := rfl
@[simp] theorem schedule_ready (s : State) (k : EventKind) (d : Nat) : (s.schedule k d).ready = s.ready := rfl
@[simp] theorem cancel_unit (s : State) (k : EventKind) : (s.cancel k).unit = s.unit := rfl
@[simp] theorem cancel_ready (s : State) (k : EventKind) : (s.cancel k).ready = s.ready := rfl
@[simp] theorem cancelAll_unit (s : State) : (s.cancelAll).unit = s.unit := rfl
@[simp] theorem cancelAll_ready (s : State) : (s.cancelAll).ready = s.ready := rfl
@[simp] theorem complete_unit (s : State) : (s.complete).unit = s.unit := rfl
@[simp] theorem complete_ready (s : State) : (s.complete).ready = s.ready := rfl
@[simp] theorem abort_unit (s : State) (e : List ErrorBit) : (s.abort e).unit = s.unit := rfl
@[simp] theorem abort_ready (s : State) (e : List ErrorBit) : (s.abort e).ready = s.ready := rfl
@[simp] theorem accept_unit (s : State) (i : Instr) : (s.accept i).unit = s.unit := rfl
@[simp] theorem accept_ready (s : State) (i : Instr) : (s.accept i).ready = s.ready := rfl
@[simp] theorem dispatch_unit (s : State) (c : CmdType) : (s.dispatch c).unit = s.unit := rfl
@[simp] theorem dispatch_ready (s : State) (c : CmdType) : (s.dispatch c).ready = s.ready := rfl
@[simp] theorem viewTypeI_unit (s : State) : (s.viewTypeI).unit = s.unit := rfl
@[simp] theorem viewTypeI_ready (s : State) : (s.viewTypeI).ready = s.ready := rfl
@[simp] theorem viewTransfer_unit (s : State) : (s.viewTransfer).unit = s.unit := rfl
@[simp] theorem viewTransfer_ready (s : State) : (s.viewTransfer).ready = s.ready := rfl
@[simp] theorem acknowledge_unit (s : State) : (s.acknowledge).unit = s.unit := rfl
@[simp] theorem acknowledge_ready (s : State) : (s.acknowledge).ready = s.ready := rfl
@[simp] theorem crcInit_unit (s : State) : (s.crcInit).unit = s.unit := rfl
@[simp] theorem crcInit_ready (s : State) : (s.crcInit).ready = s.ready := rfl
@[simp] theorem crcFeed_unit (s : State) (b : Byte) : (s.crcFeed b).unit = s.unit := rfl
@[simp] theorem crcFeed_ready (s : State) (b : Byte) : (s.crcFeed b).ready = s.ready := rfl
@[simp] theorem setStatusBit_unit (s : State) (i : Nat) (b : Bool) : (s.setStatusBit i b).unit = s.unit := rfl
@[simp] theorem setStatusBit_ready (s : State) (i : Nat) (b : Bool) : (s.setStatusBit i b).ready = s.ready := rfl

end Sys2Proof.Laws
end

