-- ==== Sys2Proof/Laws/Ops.lean ====
section
/-! SUPPORT. What each shared operation can do, said once: the slots, the status bits, the acceptance of a command, the
common dispatch and its prologue. -/

namespace Sys2Proof.Laws

open Sys2Proof.Machine

/-! ### Slots -/

@[simp] theorem get_put_same (q : Slots) (k : EventKind) (x : Option Slot) : (q.put k x).get k = x := by
  cases k <;> rfl

theorem get_put_ne (q : Slots) (k k' : EventKind) (x : Option Slot) (h : k' ≠ k) :
    (q.put k x).get k' = q.get k' := by
  cases k <;> cases k' <;> first | rfl | exact absurd rfl h

theorem get_put (q : Slots) (k k' : EventKind) (x : Option Slot) :
    (q.put k x).get k' = if k' = k then x else q.get k' := by
  split
  · subst_vars; exact get_put_same q _ x
  · exact get_put_ne q k k' x ‹_›

@[simp] theorem put_put (q : Slots) (k : EventKind) (x y : Option Slot) : (q.put k x).put k y = q.put k y := by
  cases k <;> rfl

@[simp] theorem get_empty (k : EventKind) : Slots.empty.get k = none := by cases k <;> rfl

@[simp] theorem empty_put_none (k : EventKind) : Slots.empty.put k none = Slots.empty := by cases k <;> rfl

@[simp] theorem only_put_none (k : EventKind) (x : Slot) : (Slots.only k x).put k none = Slots.empty := by
  cases k <;> rfl

theorem empty_put_some (k : EventKind) (x : Slot) : Slots.empty.put k (some x) = Slots.only k x := rfl

@[simp] theorem next_empty : Slots.empty.next = none := rfl

@[simp] theorem next_only (k : EventKind) (x : Slot) : (Slots.only k x).next = some (k, x) := by cases k <;> rfl

theorem get_only (k k' : EventKind) (x : Slot) :
    (Slots.only k x).get k' = if k' = k then some x else none := by
  rw [Slots.only, get_put, get_empty]

/-- Slots are determined by what each kind holds. -/
theorem slots_ext {q q' : Slots} (h : ∀ k, q.get k = q'.get k) : q = q' := by
  have := h .stepSeek; have := h .seekEnd; have := h .search; have := h .fiRearm
  have := h .multi1; have := h .multi2; have := h .dataLoss
  cases q; cases q'; simp_all [Slots.get]

/-! ### STATUS bits -/

theorem getLsbD_setBit (v : Byte) (i j : Nat) (b : Bool) (hi : i < 8) :
    (setBit v i b).getLsbD j = if j = i then b else v.getLsbD j := by
  have h1 : (1#8 <<< i).getLsbD j = decide (j = i) := by
    rw [BitVec.getLsbD_shiftLeft, BitVec.getLsbD_one]
    by_cases hj : j = i
    · subst hj; simp [hi]
    · simp [hj]; omega
  unfold setBit
  cases b
  · simp only [Bool.false_eq_true, if_false, BitVec.getLsbD_and, BitVec.getLsbD_not, h1]
    by_cases hj : j = i
    · simp [hj]
    · by_cases hj8 : j < 8
      · simp [hj, hj8]
      · simp [hj, BitVec.getLsbD_of_ge v j (Nat.le_of_not_lt hj8)]
  · simp only [if_true, BitVec.getLsbD_or, h1]
    by_cases hj : j = i <;> simp [hj]

/-- The same for the indexing form, which `simp` prefers. -/
theorem getElem_setBit (v : Byte) (i j : Nat) (b : Bool) (hi : i < 8) (hj : j < 8) :
    (setBit v i b)[j] = if j = i then b else v[j] := by
  have h := getLsbD_setBit v i j b hi
  rw [BitVec.getLsbD_eq_getElem hj, BitVec.getLsbD_eq_getElem hj] at h
  exact h

theorem setBit_busy_false (v : Byte) : setBit v bitBusy false = v &&& 0xFE := rfl
theorem setBit_fault_true (v : Byte) : setBit v bitHeadOrFault true = v ||| 0x20 := rfl
theorem setBit_record_true (v : Byte) : setBit v bitSeekOrRecord true = v ||| 0x10 := rfl
theorem setBit_crc_true (v : Byte) : setBit v bitCrcErr true = v ||| 0x08 := rfl
theorem setBit_lost_true (v : Byte) : setBit v bitTrack0OrLost true = v ||| 0x04 := rfl
theorem setBit_notReady_true (v : Byte) : setBit v bitNotReady true = v ||| 0x80 := rfl

theorem dispatchStatus_eq (r : Bool) : dispatchStatus r = if r = true then 0x01 else 0x81 := by cases r <;> rfl

/-! ### Acceptance -/

/-- What a command does once it is accepted (R152). -/
def body : Instr → State → State
  | .restore _ _ _ => fun s => s.dispatchTypeI restorePart
  | .seek _ _ _ => fun s => s.dispatchTypeI seekPart
  | .step _ _ _ _ => fun s => s.dispatchTypeI (stepPart s.stepVector)
  | .stepIn _ _ _ _ => fun s => s.dispatchTypeI (stepPart .inward)
  | .stepOut _ _ _ _ => fun s => s.dispatchTypeI (stepPart .outward)
  | .readSector _ _ _ _ => fun s => s.dispatchTransfer .readSector
  | .readMultiple _ _ _ _ => fun s => s.dispatchTransfer .readMulti
  | .writeSector _ _ _ _ => fun s => s.dispatchTransfer .writeSector
  | .writeMultiple _ _ _ _ => fun s => s.dispatchTransfer .writeMulti
  | .readAddress _ _ _ _ => fun s => s.dispatchTransfer .readAddress
  | .forceInterrupt _ => State.forceInterrupt
  | .readTrack _ _ _ _ => fun s => s.dispatchTransfer .readTrack
  | .writeTrack _ _ _ _ => fun s => s.dispatchTransfer .writeTrack

theorem exec_eq (i : Instr) (s : State) : exec i s = acceptCommand i (body i) s := by cases i <;> rfl

theorem acceptCommand_busy {i : Instr} {f : State → State} {s : State}
    (hb : s.busy = true) (hf : isForceInterrupt i = false) : acceptCommand i f s = .next s := by
  simp [acceptCommand, hb, hf]

theorem acceptCommand_free {i : Instr} {f : State → State} {s : State}
    (h : s.busy = false ∨ isForceInterrupt i = true) : acceptCommand i f s = .next (f (s.accept i)) := by
  rcases h with h | h <;> simp [acceptCommand, h]

/-- A command write answers a next state: the state itself, or the command's effect (R150). -/
theorem exec_cases (i : Instr) (s : State) :
    (exec i s = .next s ∧ s.busy = true ∧ isForceInterrupt i = false) ∨
    (exec i s = .next (body i (s.accept i)) ∧ (s.busy = false ∨ isForceInterrupt i = true)) := by
  rw [exec_eq]
  by_cases hb : s.busy = true ∧ isForceInterrupt i = false
  · exact .inl ⟨acceptCommand_busy hb.1 hb.2, hb⟩
  · have : s.busy = false ∨ isForceInterrupt i = true := by
      cases h1 : s.busy <;> cases h2 : isForceInterrupt i <;> simp_all
    exact .inr ⟨acceptCommand_free this, this⟩

/-! ### Dispatch -/

/-- The prologue ends in one of four ways (R153): the first failing check aborts, or SEARCH is awaited. -/
theorem prologue_cases (s : State) :
    (s.ready = false ∧ s.prologue = s.abort [.notReady]) ∨
    (s.ready = true ∧ s.cmdType.isWrite = true ∧ s.unit.writeProtected = true ∧
      s.prologue = s.abort [.writeFault]) ∨
    (s.ready = true ∧ (s.cmdType.isWrite && s.unit.writeProtected) = false ∧ s.cmdType.isTypeII = true ∧
      s.flagC = true ∧ s.flagS ≠ s.side ∧ s.prologue = s.abort [.recordNotFound]) ∨
    (s.ready = true ∧ (s.cmdType.isWrite && s.unit.writeProtected) = false ∧
      (s.cmdType.isTypeII && s.flagC && (s.flagS != s.side)) = false ∧ s.prologue = s.awaitSearch) := by
  unfold State.prologue
  by_cases h1 : s.ready = false
  · exact .inl ⟨h1, by simp [h1]⟩
  have h1' : s.ready = true := by simpa using h1
  by_cases h2 : (s.cmdType.isWrite && s.unit.writeProtected) = true
  · refine .inr (.inl ⟨h1', ?_, ?_, by simp [h1', h2]⟩) <;> simp_all
  have h2' : (s.cmdType.isWrite && s.unit.writeProtected) = false := by simpa using h2
  by_cases h3 : (s.cmdType.isTypeII && s.flagC && (s.flagS != s.side)) = true
  · refine .inr (.inr (.inl ⟨h1', h2', ?_, ?_, ?_, by simp [h1', h2', h3]⟩)) <;> simp_all
  have h3' : (s.cmdType.isTypeII && s.flagC && (s.flagS != s.side)) = false := by simpa using h3
  exact .inr (.inr (.inr ⟨h1', h2', h3', by simp [h1', h2', h3']⟩))

/-- What `awaitSearch` leaves (R153). -/
theorem awaitSearch_eq (s : State) :
    s.awaitSearch = { s with
      headEngaged := true
      settlePending := false
      phase := .settling
      slots := s.slots.put .search
        (some ⟨s.now + (if s.settlePending then s.config.delays.settle else s.config.delays.search), s.cmdType⟩) } :=
  rfl

/-- Type I motion starts in one of two ways (R180): a step, or the arrival. -/
theorem startMotion_cases (s : State) :
    (s.seekTarget ≠ s.physicalTrack ∧ s.startMotion = s.schedule .stepSeek s.stepDelay) ∨
    (s.seekTarget = s.physicalTrack ∧ s.startMotion = s.schedule .seekEnd s.config.delays.seekEnd) := by
  unfold State.startMotion
  by_cases h : s.seekTarget = s.physicalTrack <;> simp [h]

end Sys2Proof.Laws
end

