-- ==== Sys2Proof/Laws/PerInstr.lean ====
section
/-! SUPPORT. One lemma per command: the encoder writes the fixed bits of the command's row of spec/opcode_table.json. And
the rows do not overlap. -/

namespace Sys2Proof.Laws

/-- A row of spec/opcode_table.json: its mnemonic, its mask and its match. -/
structure TableRow where
  mnemonic : String
  mask     : Byte
  pattern  : Byte
  deriving DecidableEq, Repr

/-- The 13 rows, in the table's order. -/
def opcodeTable : List TableRow :=
  [⟨"RESTORE", 0xF0, 0x00⟩,
   ⟨"SEEK", 0xF0, 0x10⟩,
   ⟨"STEP", 0xE0, 0x20⟩,
   ⟨"STEP_IN", 0xE0, 0x40⟩,
   ⟨"STEP_OUT", 0xE0, 0x60⟩,
   ⟨"READ_SECTOR", 0xF0, 0x80⟩,
   ⟨"READ_MULTIPLE", 0xF0, 0x90⟩,
   ⟨"WRITE_SECTOR", 0xF0, 0xA0⟩,
   ⟨"WRITE_MULTIPLE", 0xF0, 0xB0⟩,
   ⟨"READ_ADDRESS", 0xF0, 0xC0⟩,
   ⟨"FORCE_INTERRUPT", 0xF0, 0xD0⟩,
   ⟨"READ_TRACK", 0xF0, 0xE0⟩,
   ⟨"WRITE_TRACK", 0xF0, 0xF0⟩]

/-- Two rows differ on a bit that both of them fix. -/
theorem opcodeTable_differ :
    opcodeTable.Pairwise fun a b => a.pattern &&& b.mask ≠ b.pattern &&& a.mask := by decide

/-- No byte meets two rows (R99). -/
theorem opcodeTable_disjoint :
    opcodeTable.Pairwise fun a b => ∀ v : Byte, ¬ (v &&& a.mask = a.pattern ∧ v &&& b.mask = b.pattern) :=
  opcodeTable_differ.imp fun {a _} h v ⟨ha, hb⟩ => h (by
    rw [← ha, ← hb, BitVec.and_assoc, BitVec.and_assoc, BitVec.and_comm a.mask])

/-- Every byte meets a row (R99). -/
theorem opcodeTable_total : ∀ v : Byte, ∃ a ∈ opcodeTable, v &&& a.mask = a.pattern := by decide

namespace OpcodeRow

/-- The row that names the command holds of its encoding. -/
def Statement (i : Instr) : Prop :=
  ∃ a ∈ opcodeTable, a.mnemonic = i.mnemonic ∧ encode i &&& a.mask = a.pattern

theorem restore : ∀ h v r, Statement (.restore h v r) := fun h v r =>
  ⟨⟨"RESTORE", 0xF0, 0x00⟩, by simp [opcodeTable], rfl, by revert h v r; decide⟩

theorem seek : ∀ h v r, Statement (.seek h v r) := fun h v r =>
  ⟨⟨"SEEK", 0xF0, 0x10⟩, by simp [opcodeTable], rfl, by revert h v r; decide⟩

theorem step : ∀ u h v r, Statement (.step u h v r) := fun u h v r =>
  ⟨⟨"STEP", 0xE0, 0x20⟩, by simp [opcodeTable], rfl, by revert u h v r; decide⟩

theorem stepIn : ∀ u h v r, Statement (.stepIn u h v r) := fun u h v r =>
  ⟨⟨"STEP_IN", 0xE0, 0x40⟩, by simp [opcodeTable], rfl, by revert u h v r; decide⟩

theorem stepOut : ∀ u h v r, Statement (.stepOut u h v r) := fun u h v r =>
  ⟨⟨"STEP_OUT", 0xE0, 0x60⟩, by simp [opcodeTable], rfl, by revert u h v r; decide⟩

theorem readSector : ∀ sd e c x0, Statement (.readSector sd e c x0) := fun sd e c x0 =>
  ⟨⟨"READ_SECTOR", 0xF0, 0x80⟩, by simp [opcodeTable], rfl, by revert sd e c x0; decide⟩

theorem readMultiple : ∀ sd e c x0, Statement (.readMultiple sd e c x0) := fun sd e c x0 =>
  ⟨⟨"READ_MULTIPLE", 0xF0, 0x90⟩, by simp [opcodeTable], rfl, by revert sd e c x0; decide⟩

theorem writeSector : ∀ sd e c a0, Statement (.writeSector sd e c a0) := fun sd e c a0 =>
  ⟨⟨"WRITE_SECTOR", 0xF0, 0xA0⟩, by simp [opcodeTable], rfl, by revert sd e c a0; decide⟩

theorem writeMultiple : ∀ sd e c a0, Statement (.writeMultiple sd e c a0) := fun sd e c a0 =>
  ⟨⟨"WRITE_MULTIPLE", 0xF0, 0xB0⟩, by simp [opcodeTable], rfl, by revert sd e c a0; decide⟩

theorem readAddress : ∀ x3 e x1 x0, Statement (.readAddress x3 e x1 x0) := fun x3 e x1 x0 =>
  ⟨⟨"READ_ADDRESS", 0xF0, 0xC0⟩, by simp [opcodeTable], rfl, by revert x3 e x1 x0; decide⟩

theorem forceInterrupt : ∀ cond, Statement (.forceInterrupt cond) := fun cond =>
  ⟨⟨"FORCE_INTERRUPT", 0xF0, 0xD0⟩, by simp [opcodeTable], rfl, by revert cond; decide⟩

theorem readTrack : ∀ x3 e x1 x0, Statement (.readTrack x3 e x1 x0) := fun x3 e x1 x0 =>
  ⟨⟨"READ_TRACK", 0xF0, 0xE0⟩, by simp [opcodeTable], rfl, by revert x3 e x1 x0; decide⟩

theorem writeTrack : ∀ x3 e x1 x0, Statement (.writeTrack x3 e x1 x0) := fun x3 e x1 x0 =>
  ⟨⟨"WRITE_TRACK", 0xF0, 0xF0⟩, by simp [opcodeTable], rfl, by revert x3 e x1 x0; decide⟩

end OpcodeRow

end Sys2Proof.Laws
end

