-- ==== Sys2Proof/Laws/Step.lean ====
section
/-! SUPPORT. What a step does, by the stimulus it takes, and what each event handler and each port access leaves, as
record updates: every field not named keeps its value. -/

namespace Sys2Proof.Laws

open Sys2Proof.Machine

/-! ### A step, by what it takes -/

theorem step_cons {s : State} {x : Stimulus} {rest : List Stimulus} (h : s.host = x :: rest) :
    step s = takeStimulus x { s with host := rest } := by
  unfold step stepOnce
  rw [h]

theorem step_nil {s : State} (h : s.host = []) : step s = .next (fire s) := by
  unfold step stepOnce
  rw [h]

/-- A pending event of the command in force runs its handler (R335). -/
theorem fire_live {s : State} {k : EventKind} {x : Slot} (h : s.slots.next = some (k, x))
    (ho : x.owner = s.cmdType) :
    fire s = handler k { s with now := x.fireTime, slots := s.slots.put k none } := by
  unfold fire
  rw [h]
  simp [fireEvent, ho]

/-- A pending event of another command is dropped (R336). -/
theorem fire_stale {s : State} {k : EventKind} {x : Slot} (h : s.slots.next = some (k, x))
    (ho : x.owner ≠ s.cmdType) : fire s = { s with now := x.fireTime, slots := s.slots.put k none } := by
  unfold fire
  rw [h]
  simp [fireEvent, ho]

theorem fire_none {s : State} (h : s.slots.next = none) : fire s = s := by
  unfold fire
  rw [h]

/-- A `fire` stimulus with a live event pending. -/
theorem step_fire {s : State} {rest : List Stimulus} {k : EventKind} {t : Nat} (h : s.host = .fire :: rest)
    (hn : s.slots.next = some (k, ⟨t, s.cmdType⟩)) :
    step s = .next (handler k { s with host := rest, now := t, slots := s.slots.put k none }) := by
  rw [step_cons h]
  exact congrArg _ (fire_live (s := { s with host := rest }) hn rfl)

/-- The same, when no stimulus is left and the timeline runs on. -/
theorem step_timer {s : State} {k : EventKind} {t : Nat} (h : s.host = [])
    (hn : s.slots.next = some (k, ⟨t, s.cmdType⟩)) :
    step s = .next (handler k { s with now := t, slots := s.slots.put k none }) := by
  rw [step_nil h]
  exact congrArg _ (fire_live hn rfl)

/-- What fires when exactly one event is pending (the only case a run meets). -/
theorem step_timer_only {s : State} {k : EventKind} {t : Nat} (h : s.host = [])
    (hq : s.slots = Slots.only k ⟨t, s.cmdType⟩) :
    step s = .next (handler k { s with now := t, slots := Slots.empty }) := by
  rw [step_timer (k := k) (t := t) h (by rw [hq, next_only]), hq, only_put_none]

/-! ### How a command ends -/

/-- R160 as one record. -/
theorem complete_eq (s : State) : s.complete =
    { s with
      status := s.status &&& 0xFE
      drq := false
      xferDir := .none
      cmdType := .idle
      phase := .idle
      irq := true
      slots := Slots.empty } := rfl

/-- R161 as one record. -/
theorem abort_eq (s : State) (e : ErrorBit) : s.abort [e] =
    { s with
      status := setBit s.status e.index true &&& 0xFE
      drq := false
      xferDir := .none
      cmdType := .idle
      phase := .idle
      irq := true
      slots := Slots.empty } := rfl

/-! ### Dispatch -/

/-- R180: the end of a Type I dispatch only fills one slot. -/
theorem startMotion_eq (s : State) : s.startMotion =
    { s with
      slots :=
        if s.seekTarget = s.physicalTrack then
          s.slots.put .seekEnd (some ⟨s.now + s.config.delays.seekEnd, s.cmdType⟩)
        else s.slots.put .stepSeek (some ⟨s.now + s.stepDelay, s.cmdType⟩) } := by
  rcases startMotion_cases s with ⟨h, e⟩ | ⟨h, e⟩ <;> rw [e] <;> simp [State.schedule, h]

/-- R151 and R103: an accepted Type II/III command before its prologue. -/
theorem dispatch_transfer_eq (s : State) (i : Instr) (tag : CmdType) :
    ((s.accept i).dispatch tag).viewTransfer =
    { s with
      command := encode i
      irq := false
      drq := false
      xferDir := .none
      status := if s.ready = true then 0x01 else 0x81
      cmdType := tag
      statusView := .typeIIandIII
      viewWrite := tag.isWrite
      slots := Slots.empty } := by
  simp only [State.dispatch, State.viewTransfer, State.accept, State.cancelAll, dispatchStatus_eq]
  rfl

theorem clampTrack_inward (p m : Nat) : clampTrack ((p : Int) + 1) m = min (p + 1) m := by
  unfold clampTrack
  omega

theorem clampTrack_outward (p m : Nat) : clampTrack ((p : Int) + -1) m = min (p - 1) m := by
  unfold clampTrack
  omega

theorem signToward_inward {p t : Nat} (h : p < t) : signToward p t = 1 :=
  Int.sign_eq_one_of_pos (by omega)

theorem signToward_outward {p t : Nat} (h : t < p) : signToward p t = -1 :=
  Int.sign_eq_neg_one_of_neg (by omega)

/-! ### The arrival of a Type I command -/

/-- The three ways a byte reads at the arrival (R93): RESTORE, SEEK, neither. -/
theorem decode_arrival (b : Byte) :
    (decode b = .restore (b.getLsbD 3) (b.getLsbD 2) (rateField b) ∧ b.toNat < 0x10) ∨
    (decode b = .seek (b.getLsbD 3) (b.getLsbD 2) (rateField b) ∧ 0x10 ≤ b.toNat ∧ b.toNat < 0x20) ∨
    (0x20 ≤ b.toNat ∧ (∀ h v r, decode b ≠ .restore h v r) ∧ ∀ h v r, decode b ≠ .seek h v r) := by
  have key : ∀ b : Byte,
      (decode b = .restore (b.getLsbD 3) (b.getLsbD 2) (rateField b) ∧ b.toNat < 0x10) ∨
      (decode b = .seek (b.getLsbD 3) (b.getLsbD 2) (rateField b) ∧ 0x10 ≤ b.toNat ∧ b.toNat < 0x20) ∨
      (0x20 ≤ b.toNat ∧ (decode b).mnemonic ≠ "RESTORE" ∧ (decode b).mnemonic ≠ "SEEK") := by decide
  rcases key b with h | h | ⟨h, hr, hs⟩
  · exact .inl h
  · exact .inr (.inl h)
  · exact .inr (.inr ⟨h, fun _ _ _ e => hr (by rw [e]; rfl), fun _ _ _ e => hs (by rw [e]; rfl)⟩)

/-- The bytes of the Step family (R93). -/
theorem isStepFamily_decode (b : Byte) :
    isStepFamily (decode b) = decide (0x20 ≤ b.toNat ∧ b.toNat < 0x80) := by
  revert b
  decide

/-- R187: what the arrival does for the command that arrived, by its byte. -/
theorem arrive_eq (s : State) : s.arrive =
    { s with
      status := if s.command.toNat < 0x10 then
        setBit (setBit (setBit s.status bitSeekOrRecord false) bitCrcErr false) bitIndexOrDrq true else s.status
      track := if s.command.toNat < 0x10 then 0
        else if s.command.toNat < 0x20 then BitVec.ofNat 8 s.seekTarget else s.track
      headEngaged := decide (s.command.toNat < 0x10) || s.headEngaged
      indexCtr := if s.command.toNat < 0x10 then 0 else s.indexCtr } := by
  unfold State.arrive
  rcases decode_arrival s.command with ⟨h, h1⟩ | ⟨h, h1, h2⟩ | ⟨h1, h2, h3⟩
  · rw [h]
    simp [h1]
  · rw [h]
    have h3 : ¬ s.command.toNat < 0x10 := by omega
    simp [h2, h3]
  · have h4 : ¬ s.command.toNat < 0x10 := by omega
    have h5 : ¬ s.command.toNat < 0x20 := by omega
    cases hd : decode s.command <;>
      first
      | exact absurd hd (h2 _ _ _)
      | exact absurd hd (h3 _ _ _)
      | simp [h4, h5]

/-- R188: the cursor passes the id that was read, and the answer. -/
theorem verify_eq (s : State) : s.verify =
    ({ s with
      rotationCursor := match s.unit.geometry s.physicalTrack with
        | none => s.rotationCursor
        | some g => (s.rotationCursor % g.sectors + 1) % g.sectors },
     match s.unit.geometry s.physicalTrack with
      | none => false
      | some g => match s.unit.sectorId s.physicalTrack s.side (s.rotationCursor % g.sectors) with
        | none => false
        | some id => id.trk == s.track.toNat) := by
  unfold State.verify
  cases s.unit.geometry s.physicalTrack <;> rfl

/-! ### The status recomputation -/

/-- R131: a recomputation writes STATUS and, for a ready drive in the Type I view, the index counter. -/
theorem recompute_eq (s : State) : s.recompute =
    { s with
      status := match s.statusView with
        | .typeI =>
          if s.ready = true then
            recomputeTypeI (setBit s.status bitNotReady (!s.ready)) s.unit.writeProtected s.headEngaged
              (s.physicalTrack == 0) (s.indexCtr == 0)
          else setBit s.status bitNotReady (!s.ready)
        | .typeIIandIII =>
          setBit (if s.ready = true then
            setBit (setBit s.status bitNotReady (!s.ready)) bitWriteProtect (s.viewWrite && s.unit.writeProtected)
            else setBit s.status bitNotReady (!s.ready)) bitIndexOrDrq s.drq
      indexCtr := if s.statusView = .typeI ∧ s.ready = true then (s.indexCtr + 1) % s.config.indexPeriod
        else s.indexCtr } := by
  have hu : (s.setStatusBit bitNotReady (!s.ready)).unit = s.unit := rfl
  have hr : (s.setStatusBit bitNotReady (!s.ready)).ready = s.ready := rfl
  unfold State.recompute
  simp only [hu, hr, setStatusBit_statusView]
  cases s.ready <;> split <;> simp_all [State.setStatusBit]

/-! ### The record of an opened session -/

/-- R291 for a record that is not empty. -/
theorem openRead_cons (t : Nat) (side : Bool) (k : Byte) (off : Nat) (b : Byte) (bs : List Byte) (crcOn : Bool)
    (s : State) : openRead t side k off (b :: bs) crcOn s =
    { s with
      recTrack := t
      recSide := side
      recSector := k
      recOffset := off
      xferBuf := b :: bs
      xferLen := (b :: bs).length
      xferPos := 0
      xferCrcOn := crcOn
      xferDir := .read
      crcAcc := 0xFFFF
      data := b
      drq := true
      slots := s.slots.put .dataLoss (some ⟨s.now + s.config.delays.dataLoss, s.cmdType⟩) } := rfl

/-- R292 for a record that is not empty. -/
theorem openWrite_pos (t : Nat) (side : Bool) (k : Byte) (off len : Nat) (crcOn : Bool) (s : State) (h : 0 < len) :
    openWrite t side k off len crcOn s =
    { s with
      recTrack := t
      recSide := side
      recSector := k
      recOffset := off
      xferBuf := []
      xferLen := len
      xferPos := 0
      xferCrcOn := crcOn
      xferDir := .write
      crcAcc := 0xFFFF
      drq := true
      slots := s.slots.put .dataLoss (some ⟨s.now + s.config.delays.dataLoss, s.cmdType⟩) } := by
  unfold openWrite
  rw [if_neg (by omega)]
  rfl

/-- R291 for an empty record: the session closes at once. -/
theorem openRead_nil (t : Nat) (side : Bool) (k : Byte) (off : Nat) (crcOn : Bool) (s : State) :
    openRead t side k off [] crcOn s = endOfRecord
    { s with
      recTrack := t
      recSide := side
      recSector := k
      recOffset := off
      xferBuf := []
      xferLen := 0
      xferPos := 0
      xferCrcOn := crcOn
      xferDir := .none
      crcAcc := 0xFFFF } := rfl

/-- R292 for an empty record. -/
theorem openWrite_zero (t : Nat) (side : Bool) (k : Byte) (off : Nat) (crcOn : Bool) (s : State) :
    openWrite t side k off 0 crcOn s = endOfRecord
    { s with
      recTrack := t
      recSide := side
      recSector := k
      recOffset := off
      xferBuf := []
      xferLen := 0
      xferPos := 0
      xferCrcOn := crcOn
      xferDir := .none
      crcAcc := 0xFFFF } := rfl

/-- The commit of an empty record (R217): no byte changes, and it fails where the store refuses or ends before it. -/
theorem writeBytes_nil (u : MediaUnit) (draw off : Nat) :
    u.writeBytes draw off [] = (u, !(u.storeFails || decide (u.storeSize < off))) := by
  unfold MediaUnit.writeBytes MediaUnit.writeFails MediaUnit.freeRange
  cases h : u.storeFails || decide (u.storeSize < off) <;> simp [Memory.writeRange]

/-- Putting the selected unit back changes nothing. -/
theorem set_unit_self (s : State) : s.media.set s.driveSelect s.unit = s.media := by
  apply List.ext_getElem? fun d => ?_
  rw [List.getElem?_set]
  split
  · next h =>
    subst h
    split
    · next hd => simp [State.unit, hd]
    · next hd => exact (List.getElem?_eq_none (Nat.le_of_not_lt hd)).symm
  · rfl

/-! ### The bytes of a session -/

theorem streamCrc_eq (s : State) (b : Byte) :
    s.streamCrc b = { s with crcAcc := if s.xferCrcOn = true then crcStep s.crcAcc b else s.crcAcc } := by
  unfold State.streamCrc
  split <;> rfl

theorem nextByte_eq {s : State} {b : Byte} (h : s.xferBuf[s.xferPos]? = some b) : s.nextByte = b := by
  simp [State.nextByte, List.getD, h]

/-- R293 within a record. -/
theorem transferReadByte_more {s : State} {b next : Byte} (hb : s.xferBuf[s.xferPos]? = some b)
    (hn : s.xferBuf[s.xferPos + 1]? = some next) (hl : s.xferPos + 1 ≠ s.xferLen) :
    transferReadByte s =
    { s with
      xferPos := s.xferPos + 1
      crcAcc := if s.xferCrcOn = true then crcStep s.crcAcc b else s.crcAcc
      data := next } := by
  unfold transferReadByte
  rw [nextByte_eq hb, streamCrc_eq]
  simp only [if_neg hl, State.nextByte, List.getD, hn, Option.getD_some]

/-- R293 at the end of a record. -/
theorem transferReadByte_last {s : State} {b : Byte} (hb : s.xferBuf[s.xferPos]? = some b)
    (hl : s.xferPos + 1 = s.xferLen) :
    transferReadByte s = closeRecord
    { s with
      xferPos := s.xferPos + 1
      crcAcc := if s.xferCrcOn = true then crcStep s.crcAcc b else s.crcAcc } := by
  unfold transferReadByte
  rw [nextByte_eq hb, streamCrc_eq]
  simp only [if_pos hl]

/-- R294 within a record. -/
theorem transferWriteByte_more {s : State} (v : Byte) (hl : s.xferPos + 1 ≠ s.xferLen) :
    transferWriteByte v s =
    { s with
      data := v
      xferBuf := s.xferBuf ++ [v]
      xferPos := s.xferPos + 1
      crcAcc := if s.xferCrcOn = true then crcStep s.crcAcc v else s.crcAcc } := by
  unfold transferWriteByte
  rw [streamCrc_eq]
  simp only [if_neg hl]

/-- R294 at the end of a record. -/
theorem transferWriteByte_last {s : State} (v : Byte) (hl : s.xferPos + 1 = s.xferLen) :
    transferWriteByte v s = closeRecord
    { s with
      data := v
      xferBuf := s.xferBuf ++ [v]
      xferPos := s.xferPos + 1
      crcAcc := if s.xferCrcOn = true then crcStep s.crcAcc v else s.crcAcc } := by
  unfold transferWriteByte
  rw [streamCrc_eq]
  simp only [if_pos hl]

/-! ### The ends of record -/

/-- R216 where the medium has no CRC for the record. -/
theorem endReadRecord_none {s : State} (h : s.unit.readStoredCrc s.recTrack s.recSide s.recSector = none) :
    endReadRecord s =
      if s.cmdType = .readMulti then
        State.schedule { s.cancel .dataLoss with phase := .searching } .multi1 s.config.delays.multi1
      else (s.cancel .dataLoss).complete := by
  have h' : (s.cancel .dataLoss).unit.readStoredCrc s.recTrack s.recSide s.recSector = none := h
  show (match (s.cancel .dataLoss).unit.readStoredCrc s.recTrack s.recSide s.recSector with
    | some _ => _ | none => _) = _
  rw [h']
  rfl

/-- R216 where the medium has one. -/
theorem endReadRecord_some {s : State} {c : Word16}
    (h : s.unit.readStoredCrc s.recTrack s.recSide s.recSector = some c) :
    endReadRecord s =
      if s.config.ignoreCrc = false ∧ c ≠ s.crcAcc then (s.cancel .dataLoss).abort [.crcErr]
      else if s.cmdType = .readMulti then
        State.schedule { s.cancel .dataLoss with phase := .searching } .multi1 s.config.delays.multi1
      else (s.cancel .dataLoss).complete := by
  have h' : (s.cancel .dataLoss).unit.readStoredCrc s.recTrack s.recSide s.recSector = some c := h
  show (match (s.cancel .dataLoss).unit.readStoredCrc s.recTrack s.recSide s.recSector with
    | some _ => _ | none => _) = _
  rw [h']
  rfl

/-- R216: an abort with CRC-ERR, the next sector, or the end. -/
theorem endReadRecord_cases (s : State) :
    (endReadRecord s = (s.cancel .dataLoss).abort [.crcErr] ∧ s.config.ignoreCrc = false ∧
      ∃ c, s.unit.readStoredCrc s.recTrack s.recSide s.recSector = some c ∧ c ≠ s.crcAcc) ∨
    ((s.config.ignoreCrc = false →
        ∀ c, s.unit.readStoredCrc s.recTrack s.recSide s.recSector = some c → c = s.crcAcc) ∧
      endReadRecord s =
        if s.cmdType = .readMulti then
          State.schedule { s.cancel .dataLoss with phase := .searching } .multi1 s.config.delays.multi1
        else (s.cancel .dataLoss).complete) := by
  cases hc : s.unit.readStoredCrc s.recTrack s.recSide s.recSector with
  | none => exact .inr ⟨fun _ c h => by simp at h, endReadRecord_none hc⟩
  | some c =>
    by_cases hb : s.config.ignoreCrc = false ∧ c ≠ s.crcAcc
    · exact .inl ⟨(endReadRecord_some hc).trans (if_pos hb), hb.1, c, rfl, hb.2⟩
    · refine .inr ⟨fun hi c' h => ?_, (endReadRecord_some hc).trans (if_neg hb)⟩
      cases h
      by_contra hne
      exact hb ⟨hi, hne⟩

/-- A store write changes the selected unit and takes one draw. -/
theorem memWrite_fst (s : State) (off : Nat) (bytes : List Byte) : (s.memWrite off bytes).1 =
    { s with
      media := s.media.set s.driveSelect (s.unit.writeBytes s.draws off bytes).1
      draws := s.draws + 1 } := rfl

theorem memWrite_snd (s : State) (off : Nat) (bytes : List Byte) :
    (s.memWrite off bytes).2 = !s.unit.writeFails off bytes.length := by
  show (s.unit.writeBytes s.draws off bytes).2 = _
  unfold MediaUnit.writeBytes
  split <;> simp_all

theorem recordMetadata_eq (s : State) : s.recordMetadata =
    { s with
      media := s.media.set s.driveSelect ((s.unit.writeStoredCrc s.recTrack s.recSide s.recSector
        s.crcAcc).markDeleted s.recTrack s.recSide s.recSector s.flagA0) } := rfl

theorem formatTrack_eq (s : State) (t : Nat) (side : Bool) : s.formatTrack t side =
    { s with
      media := s.media.set s.driveSelect (s.unit.makeTrack s.draws t side)
      draws := s.draws + 1 } := rfl

/-- R217: an abort with WRITE-FAULT, or the commit with its metadata and then the next sector or the end. -/
theorem endWriteRecord_cases (s : State) :
    (s.unit.writeFails s.recOffset s.xferBuf.length = true ∧
      endWriteRecord s = ((s.cancel .dataLoss).memWrite s.recOffset s.xferBuf).1.abort [.writeFault]) ∨
    (s.unit.writeFails s.recOffset s.xferBuf.length = false ∧
      endWriteRecord s =
        let w := ((s.cancel .dataLoss).memWrite s.recOffset s.xferBuf).1.recordMetadata
        if s.cmdType = .writeMulti then
          State.schedule { w with phase := .searching } .multi1 s.config.delays.multi1
        else w.complete) := by
  have h : ((s.cancel .dataLoss).memWrite s.recOffset s.xferBuf).2 =
      !s.unit.writeFails s.recOffset s.xferBuf.length := memWrite_snd _ _ _
  have hm : ((s.cancel .dataLoss).memWrite s.recOffset s.xferBuf).1.recordMetadata.cmdType = s.cmdType := by
    rw [recordMetadata_eq, memWrite_fst]
    rfl
  have he : endWriteRecord s =
      if ((s.cancel .dataLoss).memWrite s.recOffset s.xferBuf).2 = false then
        ((s.cancel .dataLoss).memWrite s.recOffset s.xferBuf).1.abort [.writeFault]
      else if ((s.cancel .dataLoss).memWrite s.recOffset s.xferBuf).1.recordMetadata.cmdType = .writeMulti then
        State.schedule { ((s.cancel .dataLoss).memWrite s.recOffset s.xferBuf).1.recordMetadata with
          phase := .searching } .multi1 s.config.delays.multi1
      else ((s.cancel .dataLoss).memWrite s.recOffset s.xferBuf).1.recordMetadata.complete := rfl
  rw [hm, h] at he
  cases hf : s.unit.writeFails s.recOffset s.xferBuf.length with
  | true => exact .inl ⟨rfl, he.trans (if_pos (by rw [hf]; rfl))⟩
  | false => exact .inr ⟨rfl, he.trans (if_neg (by rw [hf]; exact Bool.noConfusion))⟩

/-! ### Searching -/

theorem searchOrder_length (c n : Nat) : (searchOrder c n).length = n := by simp [searchOrder]

theorem mem_searchOrder {c n p : Nat} : p ∈ searchOrder c n ↔ ∃ i, i < n ∧ (c % n + i) % n = p := by
  unfold searchOrder
  rw [List.mem_map]
  simp only [List.mem_range]

theorem search_none {u : MediaUnit} {t : Nat} (h : u.geometry t = none) (side : Bool) (c : Nat) (k : Byte)
    (cmp sd : Bool) : u.search t side c k cmp sd = none := by
  simp [MediaUnit.search, h]

theorem sectorSize_eq {u : MediaUnit} {t : Nat} {g : Zone} (h : u.geometry t = some g) : u.sectorSize t = g.size := by
  simp [MediaUnit.sectorSize, h]

/-- R215: the three ways a Type II search ends. -/
theorem typeIISearch_cases (s : State) :
    (s.unit.search s.physicalTrack s.side s.rotationCursor s.sector s.flagC s.flagS = none ∧
      typeIISearch s = s.abort [.recordNotFound]) ∨
    ∃ g p id, s.unit.geometry s.physicalTrack = some g ∧
      s.unit.search s.physicalTrack s.side s.rotationCursor s.sector s.flagC s.flagS = some (p, id) ∧
      typeIISearch s = openSector { s with rotationCursor := (p + 1) % g.sectors } := by
  unfold typeIISearch
  cases hg : s.unit.geometry s.physicalTrack with
  | none => exact .inl ⟨search_none hg _ _ _ _ _, rfl⟩
  | some g =>
    cases hs : s.unit.search s.physicalTrack s.side s.rotationCursor s.sector s.flagC s.flagS with
    | none => exact .inl ⟨rfl, rfl⟩
    | some x => exact .inr ⟨g, x.1, x.2, rfl, rfl, rfl⟩

/-- R274: the re-arm event signals or polls again. -/
theorem onFiRearm_cases (s : State) :
    (fiCondition s.intLatch s.fiReadyRef s.ready = true ∧ onFiRearm s = { s with irq := true }) ∨
    (fiCondition s.intLatch s.fiReadyRef s.ready = false ∧
      onFiRearm s = { s with
        fiReadyRef := s.ready
        slots := s.slots.put .fiRearm (some ⟨s.now + s.config.delays.fi, s.cmdType⟩) }) := by
  unfold onFiRearm
  cases h : fiCondition s.intLatch s.fiReadyRef s.ready with
  | true => exact .inl ⟨rfl, rfl⟩
  | false => exact .inr ⟨rfl, rfl⟩

/-- R271 to R273: what `fi_signal` does, by what is left in the latch. -/
theorem fiSignal_eq (s : State) : s.fiSignal =
    { s with
      irq := s.intLatch.getLsbD 3 || s.irq
      fiReadyRef := if s.intLatch.getLsbD 3 = false ∧ s.intLatch ≠ 0 then s.ready else s.fiReadyRef
      slots :=
        if s.intLatch.getLsbD 3 = false ∧ s.intLatch ≠ 0 then
          s.slots.put .fiRearm (some ⟨s.now + s.config.delays.fi, s.cmdType⟩)
        else s.slots } := by
  unfold State.fiSignal
  cases h3 : s.intLatch.getLsbD 3 with
  | true => simp
  | false =>
    by_cases h : s.intLatch = 0
    · rw [if_neg (by simp), if_neg (by simp [h]), if_neg (by simp [h]), if_neg (by simp [h])]
      rfl
    · rw [if_neg (by simp), if_pos h, if_pos ⟨rfl, h⟩, if_pos ⟨rfl, h⟩]
      rfl

end Sys2Proof.Laws
end

