-- ==== Sys2Proof/Laws/Safety.lean ====
section
/-! SUPPORT. The invariant and the two comparisons of states: what they do not look at, and what follows at once. -/

namespace Sys2Proof.Laws

open Sys2Proof.Machine

/-- The invariant looks at no stimulus still to come, at no value read and at no draw. -/
theorem inv_outside {s : State} (h : s.Inv) (host : List Stimulus) (value : Option Byte) (draws : Nat) :
    { s with host := host, readValue := value, draws := draws }.Inv :=
  ⟨h.config, h.drive, h.media, h.busy, h.phase, h.tag, h.view, h.viewWrite, h.head, h.target, h.index, h.drq,
    h.streams, h.session, h.crc, h.pending, h.stepping, h.arriving⟩

theorem inv_host {s : State} (h : s.Inv) (host : List Stimulus) : { s with host := host }.Inv :=
  inv_outside h host s.readValue s.draws

/-- The selected unit meets the contract. -/
theorem inv_unit {s : State} (h : s.Inv) : s.unit.wf = true := unit_wf h.media h.drive

/-- A track has at least one sector. -/
theorem geometry_pos {u : MediaUnit} {t : Nat} {g : Zone} (hu : u.wf = true) (h : u.geometry t = some g) :
    1 ≤ g.sectors := by
  rw [MediaUnit.wf_iff] at hu
  unfold MediaUnit.geometry at h
  split at h
  · cases h
  · split at h <;> cases h
    · exact hu.1
    · exact hu.2.1

/-- BUSY is STATUS bit 0 (R24). -/
theorem busy_eq (s : State) : s.busy = s.status.getLsbD 0 := rfl

/-- A slot's tag is what is left of it when time is taken out. -/
@[simp] theorem slot_timeless_owner (x : Slot) : x.timeless.owner = x.owner := rfl

/-- Taking time out of the slots keeps which are full. -/
theorem get_timeless (q : Slots) (k : EventKind) : q.timeless.get k = (q.get k).map Slot.timeless := by
  cases k <;> rfl

theorem timeless_put (q : Slots) (k : EventKind) (x : Option Slot) :
    (q.put k x).timeless = q.timeless.put k (x.map Slot.timeless) := by
  cases k <;> rfl

@[simp] theorem timeless_empty : Slots.empty.timeless = Slots.empty := rfl

/-- Clearing the ignored bits keeps the command's row and its significant fields (R100). -/
theorem mnemonic_significant : ∀ b : Byte, (decode (significant b)).mnemonic = (decode b).mnemonic := by decide

theorem significant_idem : ∀ b : Byte, significant (significant b) = significant b := by decide

end Sys2Proof.Laws
end

