-- ==== Sys2Proof/Tests/Slice0.lean ====
section
/-! SUPPORT. The model's own tests: the checks refuse ill-formed terms, the decoder reads words written out from the
formats of spec/30_encoding.md, one step of each command and event gives what spec/95_test_vectors.md or a hand
calculation from the rules gives, and each obligation with hypotheses has a state that meets them. -/

open Sys2Proof Sys2Proof.Machine

namespace Sys2Proof.Tests

/-! ### Well-formedness smoke -/

theorem test_wf_config_default : Config.default.wf = true := by decide
theorem test_wf_refuses_max_track_256 : { Config.default with maxTrack := 256 }.wf = false := by decide
theorem test_wf_takes_max_track_255 : { Config.default with maxTrack := 255 }.wf = true := by decide
theorem test_wf_refuses_index_period_0 : { Config.default with indexPeriod := 0 }.wf = false := by decide
theorem test_wf_refuses_short_iam : { RtLayout.default with iam := [0xC2, 0xC2, 0xFC] }.wf = false := by decide
theorem test_wf_refuses_short_idam : { RtLayout.default with idam := [0xA1, 0xA1, 0xFE] }.wf = false := by decide
theorem test_wf_refuses_long_dam : { RtLayout.default with dam := [0xA1, 0xA1, 0xA1, 0xFB, 0x00] }.wf = false := by
  decide
theorem test_wf_unit_blank : MediaUnit.blank.wf = true := by decide
theorem test_wf_refuses_zone0_empty : { MediaUnit.blank with zone0 := ⟨0, 256, 1, []⟩ }.wf = false := by decide
theorem test_wf_refuses_zone1_empty : { MediaUnit.blank with zone1 := ⟨0, 128, 0, []⟩ }.wf = false := by decide
theorem test_wf_refuses_no_side : { MediaUnit.blank with numSides := 0 }.wf = false := by decide
theorem test_wf_refuses_three_sides : { MediaUnit.blank with numSides := 3 }.wf = false := by decide
theorem test_wf_refuses_unsorted_store : { MediaUnit.blank with store := [(5, 0x01), (4, 0x02)] }.wf = false := by
  decide
theorem test_wf_refuses_listed_default : { MediaUnit.blank with store := [(5, 0x00)] }.wf = false := by decide
theorem test_wf_refuses_listed_metadata :
    { MediaUnit.blank with records := [(5, RecordMeta.initial)] }.wf = false := by decide
theorem test_wf_refuses_missing_drive : (Stimulus.set 1 false true).wf 1 = false := by decide
theorem test_wf_refuses_media_for_missing_drive : (Stimulus.media 1 MediaUnit.blank).wf 1 = false := by decide
theorem test_wf_refuses_bad_media : (Stimulus.media 0 { MediaUnit.blank with numSides := 0 }).wf 1 = false := by decide
theorem test_wf_every_instruction : (Instr.readSector true true true true).wf = true := by decide

/-! ### Decoding: words from the formats of R94, R96, R97 and R98, at least one a command -/

theorem test_decode_restore : decode 0b00001000 = .restore true false 0 := by decide
theorem test_decode_seek : decode 0b00010110 = .seek false true 2 := by decide
theorem test_decode_step : decode 0b00110001 = .step true false false 1 := by decide
theorem test_decode_stepIn : decode 0b01001000 = .stepIn false true false 0 := by decide
theorem test_decode_stepOut : decode 0b01110111 = .stepOut true false true 3 := by decide
theorem test_decode_readSector : decode 0b10001000 = .readSector true false false false := by decide
theorem test_decode_readMultiple : decode 0b10010010 = .readMultiple false false true false := by decide
theorem test_decode_writeSector : decode 0b10101011 = .writeSector true false true true := by decide
theorem test_decode_writeMultiple : decode 0b10110001 = .writeMultiple false false false true := by decide
theorem test_decode_readAddress : decode 0b11000100 = .readAddress false true false false := by decide
theorem test_decode_forceInterrupt : decode 0b11010110 = .forceInterrupt 0b0110 := by decide
theorem test_decode_readTrack : decode 0b11101000 = .readTrack true false false false := by decide
theorem test_decode_writeTrack : decode 0b11110001 = .writeTrack false false false true := by decide
theorem test_decode_table_word : decodeTableWord 8 0x91 = some (.readMultiple false false false true) := by decide

/-! ### A small machine

Three tracks of two sides. Track 0 (zone 0) has two sectors of two bytes, tracks 1 and 2 (zone 1) three sectors of one
byte: `side_bytes` is 4 + 3 + 3 = 10 and the store has 20 bytes. Bytes 0 to 5 are 11, 22, 33, 44, 55, 66 (hex). -/

def unit : MediaUnit :=
  { MediaUnit.blank with
    numTracks    := 3
    zoneBoundary := 1
    zone0        := ⟨2, 2, 7, [1, 0]⟩
    zone1        := ⟨3, 1, 9, [0, 2, 1]⟩
    store        := [(0, 0x11), (1, 0x22), (2, 0x33), (3, 0x44), (4, 0x55), (5, 0x66)] }

/-- Idle and ready, MAX_TRACK 2. -/
def ready : State :=
  { State.reset with
    motorOn := true
    media   := [unit]
    config  := { Config.default with maxTrack := 2, rtLayout := { RtLayout.default with gap4aLen := 1 } } }

/-- A Type II/III command in force with one event due at time 5, or, with `k` none, none pending. -/
def running (tag : CmdType) (phase : Phase) (b : Byte) (k : Option EventKind) : State :=
  { ready with
    cmdType    := tag
    phase      := phase
    command    := b
    status     := 0x01
    statusView := .typeIIandIII
    viewWrite  := tag.isWrite
    slots      := match k with
      | some k => Slots.only k ⟨5, tag⟩
      | none => Slots.empty }

/-- A Type I command in force. -/
def moving (b : Byte) (head target : Nat) (k : EventKind) : State :=
  { running .seek .seeking b (some k) with statusView := .typeI, physicalTrack := head, seekTarget := target }

/-- An open read session. -/
def reading (tag : CmdType) (phase : Phase) (b : Byte) (buf : List Byte) (pos : Nat) (crcOn : Bool) : State :=
  { running tag phase b (some .dataLoss) with
    xferDir := .read, xferBuf := buf, xferLen := buf.length, xferPos := pos, xferCrcOn := crcOn, drq := true
    data := buf.getD pos 0, crcAcc := if crcOn then crc16 (buf.take pos) else 0xFFFF }

/-- An open write session of `len` bytes at offset `off`. -/
def writing (tag : CmdType) (phase : Phase) (b : Byte) (buf : List Byte) (len off : Nat) (crcOn : Bool) : State :=
  { running tag phase b (some .dataLoss) with
    xferDir := .write, xferBuf := buf, xferLen := len, xferPos := buf.length, xferCrcOn := crcOn, drq := true
    recOffset := off, crcAcc := if crcOn then crc16 buf else 0xFFFF }

/-- `s` with one stimulus issued. -/
def given (s : State) (x : Stimulus) : State := { s with host := [x] }

/-- What a projection reads in the state a step answers. -/
def after {α : Type} (o : Host.Outcome State Fault Refusal) (f : State → α) : Option α :=
  match o with
  | .next t => some (f t)
  | .fault _ => none
  | .refused _ => none

/-! ### The commands -/

/-- 95 L2-5, first row: from track 3 a step event is scheduled for track 0. -/
theorem test_restore_steps_toward_0 :
    after (exec (.restore false false 0) { ready with physicalTrack := 2, stepVector := .outward })
      (fun t => (t.status, t.seekTarget, t.stepVector, t.slots)) =
    some (0x01, 0, .inward, Slots.only .stepSeek ⟨3, .seek⟩) := by decide
/-- 95 L2-8: a command in the Type IV cycle cancels FI_REARM; the latch stays. -/
theorem test_restore_cancels_rearm :
    after (exec (.restore false false 0)
      { ready with cmdType := .forceInterrupt, intLatch := 4, slots := Slots.only .fiRearm ⟨9, .forceInterrupt⟩ })
      (fun t => (t.intLatch, t.slots)) = some (4, Slots.only .seekEnd ⟨1, .seek⟩) := by decide
/-- 95 L2-5: DATA 200 is clamped to MAX_TRACK. -/
theorem test_seek_clamps :
    after (exec (.seek true false 3) { ready with data := 200 })
      (fun t => (t.seekTarget, t.stepVector, t.headEngaged, t.command, t.slots)) =
    some (2, .inward, true, 0x1B, Slots.only .stepSeek ⟨15, .seek⟩) := by decide
/-- 95 L2-5: a Seek to the present track keeps `step_vector`. -/
theorem test_seek_in_place :
    after (exec (.seek false false 0) { ready with data := 1, physicalTrack := 1, stepVector := .outward })
      (fun t => (t.seekTarget, t.stepVector, t.slots)) =
    some (1, .outward, Slots.only .seekEnd ⟨1, .seek⟩) := by decide
/-- 95 L2-5: STEP follows the stored vector. -/
theorem test_step_follows_vector :
    after (exec (.step true false false 0) { ready with physicalTrack := 2, stepVector := .outward })
      (fun t => (t.seekTarget, t.stepVector)) = some (1, .outward) := by decide
/-- 95 L2-5: STEP outward at track 0 does not move. -/
theorem test_step_at_the_boundary :
    after (exec (.step true false false 0) { ready with stepVector := .outward })
      (fun t => (t.seekTarget, t.slots)) = some (0, Slots.only .seekEnd ⟨1, .seek⟩) := by decide
/-- 95 L2-5: STEP_IN at MAX_TRACK does not move. -/
theorem test_step_in_at_max_track :
    after (exec (.stepIn true false false 0) { ready with physicalTrack := 2, stepVector := .outward })
      (fun t => (t.seekTarget, t.stepVector, t.slots)) =
    some (2, .inward, Slots.only .seekEnd ⟨1, .seek⟩) := by decide
/-- 95 L2-5: STEP_OUT with h. -/
theorem test_step_out :
    after (exec (.stepOut true true false 0) { ready with physicalTrack := 2 })
      (fun t => (t.seekTarget, t.stepVector, t.headEngaged, t.command)) =
    some (1, .outward, true, 0x78) := by decide
/-- 95 L2-6, first row. -/
theorem test_read_sector_dispatch :
    after (exec (.readSector false false false false) ready)
      (fun t => (t.status, t.headEngaged, t.phase, t.slots)) =
    some (0x01, true, .settling, Slots.only .search ⟨2, .readSector⟩) := by decide
/-- 95 L2-6, side compare with side 0: RECNFND at issue. -/
theorem test_read_sector_side_compare :
    after (exec (.readSector true false true false) ready)
      (fun t => (t.status, t.irq, t.headEngaged, t.slots)) = some (0x10, true, false, Slots.empty) := by decide
/-- R153: the settle delay is taken once after a Type I command. -/
theorem test_read_multiple_settles :
    after (exec (.readMultiple false false false false) { ready with settlePending := true })
      (fun t => (t.settlePending, t.slots)) = some (false, Slots.only .search ⟨15, .readMulti⟩) := by decide
/-- 95 L1-7, first row. -/
theorem test_write_sector_protected :
    after (exec (.writeSector false false false false) { ready with media := [{ unit with writeProtected := true }] })
      (fun t => (t.status, t.irq, t.viewWrite, t.slots)) = some (0x20, true, true, Slots.empty) := by decide
/-- 95 L2-12: the a0 bit stays in COMMAND. -/
theorem test_write_sector_dispatch :
    after (exec (.writeSector false false false true) ready) (fun t => (t.command, t.cmdType, t.viewWrite)) =
    some (0xA1, .writeSector, true) := by decide
/-- R153: not ready comes before write protection. -/
theorem test_write_multiple_not_ready :
    after (exec (.writeMultiple false false false false)
      { ready with motorOn := false, media := [{ unit with writeProtected := true }] })
      (fun t => (t.status, t.irq)) = some (0x80, true) := by decide
/-- R241: Read Address looks at no side compare. -/
theorem test_read_address_dispatch :
    after (exec (.readAddress true false true false) ready) (fun t => (t.cmdType, t.slots)) =
    some (.readAddress, Slots.only .search ⟨2, .readAddress⟩) := by decide
/-- R244. -/
theorem test_read_track_dispatch :
    after (exec (.readTrack false false false false) ready) (fun t => (t.cmdType, t.viewWrite)) =
    some (.readTrack, false) := by decide
/-- R247, R103: Write Track is a write command. -/
theorem test_write_track_dispatch :
    after (exec (.writeTrack false false false false) ready) (fun t => (t.cmdType, t.viewWrite)) =
    some (.writeTrack, true) := by decide
/-- 95 L1-5: 0xD8 during a Seek: BUSY clear and IRQ in the same stimulus. -/
theorem test_force_interrupt_now :
    after (exec (.forceInterrupt 8) (moving 0x10 1 2 .stepSeek))
      (fun t => (t.status, t.irq, t.intLatch, t.slots)) = some (0x00, true, 8, Slots.empty) := by decide
/-- 95 L2-8: a second 0xD4 clears the latch. -/
theorem test_force_interrupt_toggles :
    after (exec (.forceInterrupt 4) { ready with cmdType := .forceInterrupt, intLatch := 4 })
      (fun t => (t.irq, t.intLatch, t.slots)) = some (false, 0, Slots.empty) := by decide
/-- 95 L2-4: a Restore while a Read Sector is BUSY is ignored. -/
theorem test_busy_ignores :
    after (exec (.restore false false 0) (running .readSector .settling 0x80 (some .search)))
      (fun t => (t.command, t.cmdType, t.slots)) =
    some (0x80, .readSector, Slots.only .search ⟨5, .readSector⟩) := by decide

/-! ### The events -/

/-- R186: TRACK follows a Step-In with u, clamped. -/
theorem test_step_event :
    after (step (given { moving 0x50 0 1 .stepSeek with track := 9 } .fire))
      (fun t => (t.physicalTrack, t.track, t.slots)) = some (1, 2, Slots.only .seekEnd ⟨6, .seek⟩) := by decide
/-- 95 L2-5: Step-In with V and no u fails to verify. -/
theorem test_arrival_verify_fails :
    after (step (given (moving 0x44 1 1 .seekEnd) .fire)) (fun t => (t.status, t.rotationCursor, t.irq)) =
    some (0x10, 1, true) := by decide
/-- R215, R291 by hand: on track 0 sector 0 stands at position 1; its two bytes are 11 22. -/
theorem test_search_opens_read :
    after (step (given (running .readSector .settling 0x80 (some .search)) .fire))
      (fun t => (t.data, t.drq, t.rotationCursor, t.xferBuf, t.recOffset)) =
    some (0x11, true, 0, [0x11, 0x22], 0) := by decide
/-- R218: SECTOR 2 of 3 sectors goes on. -/
theorem test_continuation :
    after (step (given { running .readMulti .searching 0x90 (some .multi1) with sector := 1, physicalTrack := 1 }
      .fire)) (fun t => (t.sector, t.slots)) = some (2, Slots.only .multi2 ⟨6, .readMulti⟩) := by decide
/-- R217 by hand: the second byte of sector 1 of track 0 commits both at offset 2. -/
theorem test_commit :
    after (step (given (writing .writeSector .transferring 0xA1 [0xAA] 2 2 true) (.write .data 0xBB)))
      (fun t => (t.unit.store, t.irq, t.unit.record 0 false 0)) =
    some ([(0, 0x11), (1, 0x22), (2, 0xAA), (3, 0xBB), (4, 0x55), (5, 0x66)], true,
      ⟨some (crc16 [0xAA, 0xBB]), true⟩) := by decide +kernel
/-- R216: a stored CRC that differs ends with CRC-ERR. -/
theorem test_crc_error :
    after (step (given { reading .readSector .transferring 0x80 [0x11, 0x22] 1 true with
      media := [{ unit with records := [(0, ⟨some 0x1234, false⟩)] }] } (.read .data)))
      (fun t => (t.status, t.readValue, t.irq)) = some (0x08, some 0x22, true) := by decide +kernel
/-- 95 L2-9: LOSTDATA. -/
theorem test_data_loss :
    after (step (given (writing .writeSector .transferring 0xA0 [0xAA] 2 2 true) .fire))
      (fun t => (t.status, t.drq, t.irq, t.media)) = some (0x04, false, true, [unit]) := by decide
/-- R292, R217 by hand: an empty sector is written with the CRC of no bytes and the a0 mark, and the command ends. -/
theorem test_empty_write_record :
    after (step { given (running .writeSector .settling 0xA1 (some .search)) .fire with
      media := [{ unit with zone0 := ⟨2, 0, 7, [1, 0]⟩ }] })
      (fun t => (t.unit.store, t.irq, t.unit.record 0 false 0)) =
    some (unit.store, true, ⟨some 0xFFFF, true⟩) := by decide +kernel
/-- 95 L2-1: the id 28 01 02 00 with its CRC 671F. -/
theorem test_id_record : idRecord ⟨40, 1, 2, 0⟩ = [0x28, 0x01, 0x02, 0x00, 0x67, 0x1F] := by decide +kernel
/-- 95 L2-1: the residual of 12 34 0E C9. -/
theorem test_crc_check : crcCheck [0x12, 0x34] 0x0E 0xC9 = true := by decide +kernel
/-- 95 L2-3: cursor 12 on track 0 finds sector 1 at position 2. -/
theorem test_search_from_cursor :
    (MediaUnit.blank.search 0 false 12 1 false false).map Prod.fst = some 2 := by decide
/-- 95 L2-2: `locate(40, 0, 7)`. -/
theorem test_locate : MediaUnit.blank.locate 40 false 7 = 52096 := by decide
/-- 95 L2-4: a protected medium after reset reads 0x46 and then 0x44. -/
theorem test_status_read :
    after (step (given { ready with media := [{ unit with writeProtected := true }] } (.read .control)))
      (fun t => (t.readValue, t.indexCtr)) = some (some 0x46, 1) := by decide
/-- 95 L2-8: 0xD4, then one index pulse is deemed to pass. -/
theorem test_rearm :
    after (step (given { running .forceInterrupt .forceInterrupt 0xD4 (some .fiRearm) with intLatch := 4 } .fire))
      (fun t => (t.irq, t.slots)) = some (true, Slots.empty) := by decide
/-- 95 L2-11: RESET keeps the inputs and the media. -/
theorem test_reset :
    after (step (given (reading .readSector .transferring 0x80 [0x11, 0x22] 1 true) .reset))
      (fun t => (t.status, t.drq, t.cmdType, t.motorOn, t.media)) = some (0x00, false, .idle, true, [unit]) := by decide
/-- The first step after reset runs the placed command. -/
theorem test_fetch_word :
    after (step (State.reset.withFetchWord 8 0x03)) (fun t => (t.command, t.cmdType)) = some (0x03, .seek) := by decide

/-! ### Witnesses: states and operands that meet the hypotheses of the obligations, clause by clause -/

/-- The small machine meets the invariant. -/
theorem ready_inv : ready.Inv where
  config := by decide
  drive := by decide
  media := by decide
  busy := by decide
  phase := by decide
  tag := fun h => absurd rfl h
  view := fun h => nomatch h
  viewWrite := fun h => nomatch h
  head := by decide
  target := by decide
  index := by decide
  drq := by decide
  streams := by decide
  session := trivial
  crc := fun h => absurd rfl h
  pending := .inl ⟨rfl, rfl⟩
  stepping := fun h => absurd rfl h
  arriving := fun h => absurd rfl h

/-- A Read Sector with its second byte ready: a state inside a session meets the invariant too. -/
def midRead : State := reading .readSector .transferring 0x80 [0x11, 0x22] 1 true

theorem midRead_inv : midRead.Inv where
  config := by decide
  drive := by decide
  media := by decide
  busy := by decide
  phase := by decide
  tag := fun _ => by decide
  view := fun _ => by decide
  viewWrite := fun _ => by decide
  head := by decide
  target := by decide
  index := by decide
  drq := by decide
  streams := by decide
  session := ⟨rfl, by decide, rfl, rfl⟩
  crc := fun _ => rfl
  pending := .inr ⟨.dataLoss, ⟨5, .readSector⟩, rfl, rfl, rfl, by decide⟩
  stepping := fun h => absurd rfl h
  arriving := fun h => absurd rfl h

theorem witness_DecodeOfEncodeIsTheInstruction : (Instr.seek true true 3).wf = true := rfl

theorem witness_FormatsPlaceTheFields :
    decode 0x0F = .restore true true 3 ∧ decode 0x1C = .seek true true 0 ∧ decode 0x3F = .step true true true 3 ∧
    decode 0x40 = .stepIn false false false 0 ∧ decode 0x7F = .stepOut true true true 3 ∧
    decode 0x80 = .readSector false false false false ∧ decode 0x9F = .readMultiple true true true true ∧
    decode 0xA1 = .writeSector false false false true ∧ decode 0xBF = .writeMultiple true true true true ∧
    decode 0xC0 = .readAddress false false false false ∧ decode 0xEF = .readTrack true true true true ∧
    decode 0xFF = .writeTrack true true true true ∧ decode 0xDF = .forceInterrupt 15 := by decide

theorem witness_StepRunsTheDecodedCommand :
    (given ready (.write .control 0x10)).host = .write .control 0x10 :: [] := rfl

theorem witness_CommandWhileBusyIsIgnored :
    midRead.busy = true ∧ ∀ cond, Instr.restore false false 0 ≠ .forceInterrupt cond :=
  ⟨by decide, fun _ h => nomatch h⟩

theorem witness_TypeICommandsStartTheHead : ready.busy = false := by decide

/-- Up and not yet there, down and there. -/
theorem witness_StepEventMovesTheHeadOneTrack :
    (given (moving 0x10 0 2 .stepSeek) .fire).host = .fire :: [] ∧
    (given (moving 0x10 0 2 .stepSeek) .fire).slots.next = some (.stepSeek, ⟨5, .seek⟩) ∧
    (moving 0x10 0 2 .stepSeek).physicalTrack ≠ (moving 0x10 0 2 .stepSeek).seekTarget ∧
    (moving 0x70 2 1 .stepSeek).slots.next = some (.stepSeek, ⟨5, .seek⟩) ∧
    (moving 0x70 2 1 .stepSeek).physicalTrack ≠ (moving 0x70 2 1 .stepSeek).seekTarget := by decide

/-- The last Restore byte, the first and last Seek bytes, the first Step byte. -/
theorem witness_ArrivalEndsATypeICommand : ∀ b ∈ [(0x0F : Byte), 0x10, 0x1F, 0x20],
    (given (moving b 1 1 .seekEnd) .fire).host = .fire :: [] ∧
    (given (moving b 1 1 .seekEnd) .fire).slots.next = some (.seekEnd, ⟨5, .seek⟩) := by decide

theorem witness_SeekFiresOneStepEventPerTrack :
    ready.busy = false ∧ ready.host = [] ∧
    { ready with physicalTrack := 2 }.busy = false ∧ { ready with physicalTrack := 2 }.host = [] := by decide

theorem witness_RestoreReachesTrackZero :
    { ready with physicalTrack := 2 }.busy = false ∧ { ready with physicalTrack := 2 }.host = [] := by decide

/-- At both boundaries, with each of the three commands. -/
theorem witness_StepFamilyMovesOneTrackOrStopsAtTheBoundary :
    (∀ head ∈ [0, 2], { ready with physicalTrack := head }.busy = false ∧
      { ready with physicalTrack := head }.host = [] ∧
      { ready with physicalTrack := head }.physicalTrack ≤ ready.config.maxTrack ∧ ready.config.maxTrack ≤ 255) ∧
    Instr.step true false false 0 = .step true false false 0 ∧ ready.stepVector = .inward ∧
    Instr.stepIn true false false 0 = .stepIn true false false 0 ∧
    Instr.stepOut true false false 0 = .stepOut true false false 0 := by decide

theorem witness_TransferCommandsWaitForTheirSearch :
    ready.busy = false ∧ ready.ready = true ∧ ready.unit.writeProtected = false ∧ ready.side = false := by decide

/-- Not ready; ready and protected; ready, unprotected, the other side. -/
theorem witness_TransferDispatchChecksInOrder :
    ready.busy = false ∧ { ready with motorOn := false }.busy = false ∧
    { ready with motorOn := false }.ready = false ∧
    { ready with media := [{ unit with writeProtected := true }] }.ready = true ∧
    { ready with media := [{ unit with writeProtected := true }] }.unit.writeProtected = true ∧
    ready.ready = true ∧ true ≠ ready.side ∧ ready.unit.writeProtected = false := by decide

theorem witness_SearchAnswersTheFirstMatchInRotation :
    unit.geometry 3 = none ∧ unit.geometry 2 = some unit.zone1 ∧ unit.geometry 0 = some unit.zone0 := by decide

/-- On the last track of M_EX, side 1, for the last sector. -/
theorem witness_RotationIsComplete :
    MediaUnit.blank.idTable = [] ∧ MediaUnit.blank.geometry 79 = some MediaUnit.blank.zone1 ∧
    true.toNat < MediaUnit.blank.numSides ∧ MediaUnit.blank.zone1.sectors ≤ 256 ∧
    MediaUnit.blank.zone1.interleave.Perm ((List.range MediaUnit.blank.zone1.sectors).map (BitVec.ofNat 8)) ∧
    7 < MediaUnit.blank.zone1.sectors := by decide

def searching (tag : CmdType) (phase : Phase) (b : Byte) (k : EventKind) : State :=
  given (running tag phase b (some k)) .fire

theorem witness_SectorSearchOpensAReadSession :
    (searching .readSector .settling 0x80 .search).host = .fire :: [] ∧
    (searching .readSector .settling 0x80 .search).slots.next = some (.search, ⟨5, .readSector⟩) ∧
    (searching .readMulti .searching 0x90 .multi2).slots.next = some (.multi2, ⟨5, .readMulti⟩) ∧
    (searching .readSector .settling 0x80 .search).unit.geometry 0 = some unit.zone0 ∧
    unit.search 0 false 0 0 false false = some (1, ⟨0, 0, 0, 7⟩) ∧
    unit.readBytes 0 (unit.locate 0 false 0) 2 = [0x11, 0x22] := by decide

theorem witness_SectorSearchOpensAWriteSession :
    (searching .writeSector .settling 0xA0 .search).host = .fire :: [] ∧
    (searching .writeSector .settling 0xA0 .search).slots.next = some (.search, ⟨5, .writeSector⟩) ∧
    (searching .writeMulti .searching 0xB0 .multi2).slots.next = some (.multi2, ⟨5, .writeMulti⟩) ∧
    (searching .writeSector .settling 0xA0 .search).unit.geometry 0 = some unit.zone0 ∧ 0 < unit.zone0.size ∧
    unit.search 0 false 0 0 false false = some (1, ⟨0, 0, 0, 7⟩) := by decide

/-- No sector 2 on track 0; and the other side with side compare. -/
theorem witness_FailedSearchEndsWithRecordNotFound :
    (searching .readSector .settling 0x80 .search).slots.next = some (.search, ⟨5, .readSector⟩) ∧
    unit.search 0 false 0 2 false false = none ∧ unit.search 0 false 0 0 true true = none := by decide

/-- A medium whose zone 0 sectors are empty, with a read, and with a write at either event: no stored CRC, one that
differs from 0xFFFF, a store that takes the commit, one that refuses it, and (side 1 of a one-sided medium, with an id
of its own there) a record past the end. -/
theorem witness_EmptyRecordEndsAtOnce :
    let u := { unit with zone0 := ⟨2, 0, 7, [1, 0]⟩ }
    let s := { searching .readSector .settling 0x80 .search with media := [u] }
    let m := { searching .readMulti .searching 0x90 .multi2 with
      media := [{ u with records := [(0, ⟨some 0x1234, false⟩)] }] }
    let w := { searching .writeSector .settling 0xA1 .search with media := [u] }
    let r := { searching .writeMulti .searching 0xB0 .multi2 with media := [{ u with storeFails := true }] }
    let e := { searching .writeMulti .settling 0xB0 .search with
      physicalTrack := 2, side := true
      media := [{ u with numSides := 1, zone1 := ⟨1, 0, 9, [0]⟩, zone0 := ⟨2, 2, 7, [1, 0]⟩,
                         idTable := [⟨2, true, 0, some ⟨2, 1, 0, 9⟩⟩] }] }
    (s.host = .fire :: [] ∧ s.slots.next = some (.search, ⟨5, .readSector⟩) ∧
      s.unit.geometry s.physicalTrack = some ⟨2, 0, 7, [1, 0]⟩ ∧
      s.unit.search s.physicalTrack s.side s.rotationCursor s.sector false false = some (1, ⟨0, 0, 0, 7⟩) ∧
      s.unit.readStoredCrc 0 false 0 = none) ∧
    (m.slots.next = some (.multi2, ⟨5, .readMulti⟩) ∧ m.config.ignoreCrc = false ∧
      m.unit.readStoredCrc m.physicalTrack m.side m.sector = some 0x1234 ∧ (0x1234 : Word16) ≠ 0xFFFF) ∧
    (w.slots.next = some (.search, ⟨5, .writeSector⟩) ∧ w.driveSelect < w.media.length ∧ w.unit.wf = true ∧
      ¬ (w.unit.storeFails = true ∨ w.unit.storeSize < w.unit.locate 0 false 0)) ∧
    (r.slots.next = some (.multi2, ⟨5, .writeMulti⟩) ∧ r.unit.storeFails = true) ∧
    (e.unit.geometry 2 = some ⟨1, 0, 9, [0]⟩ ∧
      e.unit.search 2 true e.rotationCursor e.sector false false = some (0, ⟨2, 1, 0, 9⟩) ∧
      e.unit.storeSize < e.unit.locate 2 true 0) := by decide

/-- A Write Track whose `WT_LEN(0)` is 0, on a reference medium, and on one that refuses the write. -/
theorem witness_EmptyRecordEndsAtOnce_track :
    let s := searching .writeTrack .settling 0xF0 .search
    let z := { s with config := { s.config with wtLen := [(0, 0)] } }
    z.host = .fire :: [] ∧ z.slots.next = some (.search, ⟨5, .writeTrack⟩) ∧
    z.unit.geometry z.physicalTrack = some unit.zone0 ∧ z.writeTrackLength z.physicalTrack = 0 ∧
    z.driveSelect < z.media.length ∧ z.unit.formatInert = true ∧ z.unit.storeFails = false ∧
    z.unit.locate z.physicalTrack z.side 0 ≤ z.unit.storeSize ∧
    { z with media := [{ unit with storeFails := true }] }.unit.storeFails = true := by decide

/-- The last sector but one goes on; the last one, and sector 255, which wraps to 0. -/
theorem witness_ContinuationIncrementsSector :
    (searching .readMulti .searching 0x90 .multi1).host = .fire :: [] ∧
    (searching .readMulti .searching 0x90 .multi1).slots.next = some (.multi1, ⟨5, .readMulti⟩) ∧
    unit.geometry 0 = some unit.zone0 ∧ ¬ unit.zone0.sectors ≤ (BitVec.ofNat 8 (0 + 1)).toNat ∧
    unit.zone0.sectors ≤ (BitVec.ofNat 8 (1 + 1)).toNat ∧
    ¬ unit.zone0.sectors ≤ (BitVec.ofNat 8 (255 + 1)).toNat := by decide

theorem witness_DataReadAdvancesTheStream :
    let s := given (reading .readAddress .transferring 0xC0 [0x01, 0x02, 0x03] 0 false) (.read .data)
    s.host = .read .data :: [] ∧ s.drq = true ∧ s.cmdType = .readAddress ∧ s.xferBuf[s.xferPos]? = some 0x01 ∧
    s.xferPos + 1 ≠ s.xferLen ∧ s.xferBuf[s.xferPos + 1]? = some 0x02 := by decide

/-- A record with no stored CRC, and one whose stored CRC differs. -/
theorem witness_LastByteOfAReadRecord :
    let s := given midRead (.read .data)
    let bad := { s with media := [{ unit with records := [(0, ⟨some 0x1234, false⟩)] }] }
    s.host = .read .data :: [] ∧ s.drq = true ∧ s.xferBuf[s.xferPos]? = some 0x22 ∧ s.xferPos + 1 = s.xferLen ∧
    s.unit.readStoredCrc s.recTrack s.recSide s.recSector = none ∧ bad.config.ignoreCrc = false ∧
    bad.unit.readStoredCrc bad.recTrack bad.recSide bad.recSector = some 0x1234 ∧
    0x1234 ≠ crcStep bad.crcAcc 0x22 ∧
    (reading .readAddress .transferring 0xC0 [0x01, 0x02] 1 false).xferPos + 1 = 2 ∧
    (reading .readTrack .readingTrack 0xE0 [0x01, 0x02] 1 false).cmdType = .readTrack ∧
    (reading .readMulti .transferring 0x90 [0x01, 0x02] 1 true).cmdType = .readMulti := by decide +kernel

theorem witness_DataWriteCollectsTheByte :
    let s := given (writing .writeSector .transferring 0xA0 [] 2 2 true) (.write .data 0xAA)
    s.host = .write .data 0xAA :: [] ∧ s.drq = true ∧ s.cmdType = .writeSector ∧ s.xferPos + 1 ≠ s.xferLen := by decide

/-- The record that ends where the store ends. -/
theorem witness_LastByteOfAWriteRecordCommits :
    let s := given (writing .writeMulti .transferring 0xB0 [0xAA] 2 18 true) (.write .data 0xBB)
    s.host = .write .data 0xBB :: [] ∧ s.drq = true ∧ s.cmdType = .writeMulti ∧ s.xferPos + 1 = s.xferLen ∧
    s.driveSelect < s.media.length ∧ s.unit.wf = true ∧ s.unit.storeFails = false ∧
    s.recOffset + (s.xferBuf ++ [0xBB]).length = s.unit.storeSize := by decide

/-- A store that refuses writes, and a record one byte past the end of the store. -/
theorem witness_FailedCommitEndsWithWriteFault :
    let s := given (writing .writeTrack .writingTrack 0xF0 [0xAA] 2 19 false) (.write .data 0xBB)
    let r := { given (writing .writeSector .transferring 0xA0 [0xAA] 2 2 true) (.write .data 0xBB) with
      media := [{ unit with storeFails := true }] }
    s.host = .write .data 0xBB :: [] ∧ s.drq = true ∧ s.cmdType = .writeTrack ∧ s.xferPos + 1 = s.xferLen ∧
    s.driveSelect < s.media.length ∧ s.unit.wf = true ∧ s.unit.formatInert = true ∧
    s.unit.storeSize < s.recOffset + (s.xferBuf ++ [0xBB]).length ∧
    r.cmdType = .writeSector ∧ r.drq = true ∧ r.xferPos + 1 = r.xferLen ∧ r.unit.wf = true ∧
    r.unit.storeFails = true := by decide

theorem witness_LastByteOfATrackImageCommits :
    let s := given (writing .writeTrack .writingTrack 0xF0 [0xAA] 2 18 false) (.write .data 0xBB)
    s.host = .write .data 0xBB :: [] ∧ s.drq = true ∧ s.cmdType = .writeTrack ∧ s.xferPos + 1 = s.xferLen ∧
    s.driveSelect < s.media.length ∧ s.unit.wf = true ∧ s.unit.storeFails = false ∧
    s.recOffset + (s.xferBuf ++ [0xBB]).length ≤ s.unit.storeSize ∧ s.unit.formatInert = true := by decide

theorem witness_DataLossEndsTheCommand :
    (given midRead .fire).host = .fire :: [] ∧
    (given midRead .fire).slots.next = some (.dataLoss, ⟨5, .readSector⟩) := by decide

/-- Track 0 has an id under the head; track 3 is off the medium; an entry of the id table takes an id away. -/
theorem witness_ReadAddressServesTheIdUnderTheHead :
    let s := searching .readAddress .settling 0xC0 .search
    s.host = .fire :: [] ∧ s.slots.next = some (.search, ⟨5, .readAddress⟩) ∧ s.cmdType = .readAddress ∧
    s.unit.geometry 3 = none ∧ s.unit.geometry 0 = some unit.zone0 ∧
    s.unit.sectorId 0 false (0 % unit.zone0.sectors) = some ⟨0, 0, 1, 7⟩ ∧
    { unit with idTable := [⟨0, false, 0, none⟩] }.sectorId 0 false 0 = none := by decide

theorem witness_ReadTrackServesTheTrackImage :
    let s := searching .readTrack .settling 0xE0 .search
    s.host = .fire :: [] ∧ s.slots.next = some (.search, ⟨5, .readTrack⟩) ∧ s.cmdType = .readTrack ∧
    s.unit.geometry 3 = none ∧ s.unit.geometry 0 = some unit.zone0 ∧
    ∃ bs, trackImage s.unit s.config.rtLayout s.draws 0 false unit.zone0 = 0x4E :: bs :=
  ⟨rfl, rfl, rfl, rfl, rfl, _, rfl⟩

theorem witness_WriteTrackAsksForTheTrackImage :
    let s := searching .writeTrack .settling 0xF0 .search
    s.host = .fire :: [] ∧ s.slots.next = some (.search, ⟨5, .writeTrack⟩) ∧ s.cmdType = .writeTrack ∧
    s.unit.geometry 3 = none ∧ s.unit.geometry 0 = some unit.zone0 ∧
    s.config.wtLen.find? (fun e => e.1 == s.physicalTrack) = none ∧ 0 < unit.zone0.sectors * unit.zone0.size := by
  decide

theorem witness_RearmEventWaitsForItsCondition :
    let s := given (running .forceInterrupt .forceInterrupt 0xD3 (some .fiRearm)) .fire
    s.host = .fire :: [] ∧ s.slots.next = some (.fiRearm, ⟨5, .forceInterrupt⟩) ∧ s.ready = true ∧
    s.fiReadyRef = false := by decide

theorem witness_StatusReadRecomputesAndAcknowledges :
    (given ready (.read .control)).host = .read .control :: [] := rfl

/-- A write that is taken, and one that the policy REJECT turns away. -/
theorem witness_TrackAndSectorWrites :
    (given ready (.write .track 5)).host = .write .track 5 :: [] ∧ ready.busy = false ∧
    (given midRead (.write .sector 5)).host = .write .sector 5 :: [] ∧ midRead.busy = true ∧
    midRead.cmdType = .readSector ∧
    { midRead with config := { midRead.config with pokePolicy := .reject } }.config.pokePolicy = .reject := by decide

theorem witness_TrackAndSectorReads :
    (given midRead (.read .track)).host = .read .track :: [] ∧
    (given midRead (.read .sector)).host = .read .sector :: [] := by decide

/-- A busy command before its session, an idle block, and a read with no session. -/
theorem witness_DataPortOutsideASession :
    let s := given (running .readSector .settling 0x80 (some .search)) (.write .data 0x55)
    s.host = .write .data 0x55 :: [] ∧ s.drq = false ∧ s.busy = true ∧ s.cmdType = .readSector ∧
    (given ready (.write .data 0x10)).host = .write .data 0x10 :: [] ∧ ready.busy = false ∧ ready.drq = false ∧
    (given ready (.read .data)).host = .read .data :: [] := by decide

/-- The last drive there is, and the first there is not. -/
theorem witness_InputChangeSetsOnlyTheInputs :
    (given ready (.set 0 true true)).host = .set 0 true true :: [] ∧ 0 < ready.media.length ∧
    (given ready (.set 1 true true)).host = .set 1 true true :: [] ∧ ready.media.length ≤ 1 := by decide

theorem witness_StaleEventIsDiscarded :
    let s := given { ready with slots := Slots.only .stepSeek ⟨5, .seek⟩ } .fire
    s.host = .fire :: [] ∧ s.slots.next = some (.stepSeek, ⟨5, .seek⟩) ∧ CmdType.seek ≠ s.cmdType := by decide

theorem witness_ScheduleReplacesAndCancelEmpties : midRead.slots.get .search = none := rfl

theorem witness_OnlyOneEventIsPendingAndItIsNotStale :
    { midRead with host := [] }.Inv ∧ midRead.slots.next = some (.dataLoss, ⟨5, .readSector⟩) :=
  ⟨Laws.inv_host midRead_inv [], rfl⟩

theorem witness_LocateHasItsClosedForm : 79 < MediaUnit.blank.numTracks := by decide

/-- Across the sides, across the tracks, within a track. -/
theorem witness_RecordsAreOrderedAndDisjoint :
    unit.geometry 2 = some unit.zone1 ∧ unit.geometry 0 = some unit.zone0 ∧ 2 < unit.zone1.sectors ∧
    1 < unit.zone0.sectors ∧ (0 < 2 ∧ 0 < 1) ∧ unit.locate 2 false 2 + unit.zone1.size ≤ unit.locate 0 true 0 := by
  decide

/-- The range that ends where the store ends. -/
theorem witness_StoreReadsBackWhatWasWritten :
    unit.wf = true ∧ unit.storeFails = false ∧ 18 + [(0xAA : Byte), 0xBB].length ≤ unit.storeSize := by decide

theorem witness_ResetStimulusRestoresTheResetState : (given midRead .reset).host = .reset :: [] := rfl

theorem witness_EveryStepKeepsTheInvariant :
    { midRead with host := [.read .data] }.Inv ∧ ∃ t, step { midRead with host := [.read .data] } = .next t :=
  ⟨Laws.inv_host midRead_inv _, _, rfl⟩

theorem witness_NoStimulusStopsTheBlock :
    ∀ x, Takes (given ready (.set 0 true true)) x → x.wf (given ready (.set 0 true true)).media.length = true := by
  intro x h
  cases h
  rfl

/-- No stimulus left: the premise holds of an empty queue, with no event pending and with one. -/
theorem witness_NoStimulusStopsTheBlock_empty :
    (∀ x, Takes ready x → x.wf ready.media.length = true) ∧ ready.slots = Slots.empty ∧
    (∀ x, Takes midRead x → x.wf midRead.media.length = true) ∧
    midRead.slots.next = some (.dataLoss, ⟨5, .readSector⟩) :=
  ⟨fun _ h => (nomatch h), rfl, fun _ h => (nomatch h), rfl⟩

theorem witness_QuiescentBlockStaysAsItIs : ready.quiescent ∧ ready.host = [] := ⟨⟨by decide, rfl⟩, rfl⟩

/-- A step that changes COMMAND, one that changes SECTOR, one that changes the inputs. -/
theorem witness_RegistersAreWrittenOnlyByTheirWriters :
    after (step (given ready (.write .control 0x10))) (fun t => t.command) = some 0x10 ∧ ready.command ≠ 0x10 ∧
    after (step (given ready (.write .sector 7))) (fun t => t.sector) = some 7 ∧ ready.sector ≠ 7 ∧
    after (step (given ready (.set 0 true true))) (fun t => t.side) = some true ∧ ready.side ≠ true := by decide

/-- Steps that change a medium, one for each clause: the last byte of a record; an access of the surrounding system; an
empty sector at SEARCH and at MULTI_2 (its record gets a CRC). -/
theorem witness_MediaChangeOnlyAtTheEndOfAWriteRecord :
    after (step (given (writing .writeSector .transferring 0xA0 [0xAA] 2 2 true) (.write .data 0xBB)))
      (fun t => decide (t.media ≠ ready.media)) = some true ∧
    after (step (given ready (.media 0 MediaUnit.blank))) (fun t => decide (t.media ≠ ready.media)) = some true ∧
    (let u := { unit with zone0 := ⟨2, 0, 7, [1, 0]⟩ }
     after (step { searching .writeSector .settling 0xA0 .search with media := [u] })
       (fun t => decide (t.media ≠ [u])) = some true ∧
     after (step { searching .writeMulti .searching 0xB0 .multi2 with media := [u] })
       (fun t => decide (t.media ≠ [u])) = some true) := by decide +kernel

/-- The clause on Write Track: an empty image on a medium that is not the reference one, where `make_track` may change
the store. -/
theorem witness_MediaChangeOnlyAtTheEndOfAWriteRecord_track :
    let s := searching .writeTrack .settling 0xF0 .search
    let z := { s with config := { s.config with wtLen := [(0, 0)] }, media := [{ unit with formatInert := false }] }
    Fires z .search ∧ z.cmdType = .writeTrack ∧ z.unit.geometry z.physicalTrack ≠ none ∧
    z.writeTrackLength z.physicalTrack = 0 := by
  exact ⟨⟨.inr rfl, ⟨5, .writeTrack⟩, rfl⟩, rfl, by decide, rfl⟩

/-- Two states that differ in ignored bits only: bit 0 and E of a Read Sector. -/
theorem witness_IgnoredBitsAreNeverLookedAt :
    { ready with host := [.write .control 0x80] }.Inv ∧ { ready with host := [.write .control 0x85] }.Inv ∧
    { ready with host := [.write .control 0x80] }.significantBits =
      { ready with host := [.write .control 0x85] }.significantBits :=
  ⟨Laws.inv_host ready_inv _, Laws.inv_host ready_inv _, rfl⟩

/-- Two states with another clock. -/
theorem witness_NoOutcomeDependsOnTheDelays :
    { ready with host := [.write .control 0x10] }.Inv ∧
    { ready with now := 7, host := [.write .control 0x10] }.timeless =
      { ready with host := [.write .control 0x10] }.timeless := ⟨Laws.inv_host ready_inv _, rfl⟩

end Sys2Proof.Tests
end

section
/-! PROOFS. The decode table, read by the high half of the command byte (spec/30_encoding.md R99). -/

namespace Sys2Proof.Proofs

/-- The high half of a byte is the number that its bits 7 to 4 write. -/
theorem toNat_div_sixteen (b : Byte) :
    b.toNat / 16 = 8 * (b.getLsbD 7).toNat + 4 * (b.getLsbD 6).toNat + 2 * (b.getLsbD 5).toNat +
      (b.getLsbD 4).toNat := by
  have hb : b.toNat < 256 := b.isLt
  simp only [BitVec.getLsbD, Nat.toNat_testBit]
  omega

/-- Settles O3: the four bits `decode` splits on are the binary digits of `b / 16`, so each of the 16 values of those
bits fixes both the row `decode` takes and the row the statement names. -/
theorem topBitsSelectTheRow : Obligations.TopBitsSelectTheRow := by
  intro b
  rw [toNat_div_sixteen, decode]
  cases b.getLsbD 7 <;> cases b.getLsbD 6 <;> cases b.getLsbD 5 <;> cases b.getLsbD 4 <;> rfl

end Sys2Proof.Proofs
end

section
/-! PROOFS. The status read, and the Track and Sector ports (spec/40_bus_interface.md R131 to R135). -/

namespace Sys2Proof.Proofs

open Sys2Proof.Machine Sys2Proof.Laws

/-! ### The status read (R131, R132) -/

/-- R131, Type I view, ready drive: four bits are written over the stored byte. -/
theorem getLsbD_recomputeTypeI (v : Byte) (writeProtected headEngaged track0 index : Bool) (j : Nat) :
    (recomputeTypeI v writeProtected headEngaged track0 index).getLsbD j =
      if j = bitIndexOrDrq then index
      else if j = bitTrack0OrLost then track0
      else if j = bitHeadOrFault then headEngaged
      else if j = bitWriteProtect then writeProtected
      else v.getLsbD j := by
  unfold recomputeTypeI
  rw [getLsbD_setBit _ bitIndexOrDrq _ _ (by decide), getLsbD_setBit _ bitTrack0OrLost _ _ (by decide),
    getLsbD_setBit _ bitHeadOrFault _ _ (by decide), getLsbD_setBit _ bitWriteProtect _ _ (by decide)]

/-- R131, Type I view, bit by bit: a drive that is not ready has bit 7 written alone. -/
theorem getLsbD_recompute_typeI {s : State} (hv : s.statusView = .typeI) (j : Nat) :
    s.recompute.status.getLsbD j =
      if s.ready = true ∧ j = bitIndexOrDrq then s.indexCtr == 0
      else if s.ready = true ∧ j = bitTrack0OrLost then s.physicalTrack == 0
      else if s.ready = true ∧ j = bitHeadOrFault then s.headEngaged
      else if s.ready = true ∧ j = bitWriteProtect then s.unit.writeProtected
      else if j = bitNotReady then !s.ready
      else s.status.getLsbD j := by
  rw [recompute_eq, hv]
  by_cases hr : s.ready = true
  · simp only [hr, if_true, true_and]
    rw [getLsbD_recomputeTypeI, getLsbD_setBit _ bitNotReady _ _ (by decide)]
  · simp only [hr, Bool.false_eq_true, if_false, false_and]
    rw [getLsbD_setBit _ bitNotReady _ _ (by decide)]

/-- R131, Type II/III view, bit by bit: bit 1 follows DRQ whether or not the drive is ready. -/
theorem getLsbD_recompute_typeIIandIII {s : State} (hv : s.statusView = .typeIIandIII) (j : Nat) :
    s.recompute.status.getLsbD j =
      if j = bitIndexOrDrq then s.drq
      else if s.ready = true ∧ j = bitWriteProtect then s.viewWrite && s.unit.writeProtected
      else if j = bitNotReady then !s.ready
      else s.status.getLsbD j := by
  rw [recompute_eq, hv]
  dsimp only
  rw [getLsbD_setBit _ bitIndexOrDrq _ _ (by decide)]
  by_cases hr : s.ready = true
  · simp only [hr, if_true, true_and]
    rw [getLsbD_setBit _ bitWriteProtect _ _ (by decide), getLsbD_setBit _ bitNotReady _ _ (by decide)]
  · simp only [hr, Bool.false_eq_true, if_false, false_and]
    rw [getLsbD_setBit _ bitNotReady _ _ (by decide)]

/-- R132: the read acknowledges and returns the recomputed byte. -/
theorem step_readStatus {s : State} {rest : List Stimulus} (h : s.host = .read .control :: rest) :
    step s = .next { s with
      host := rest
      status := s.recompute.status
      readValue := some s.recompute.status
      irq := false
      indexCtr := if s.statusView = .typeI ∧ s.ready = true then (s.indexCtr + 1) % s.config.indexPeriod
        else s.indexCtr } := by
  rw [step_cons h, takeStimulus, readPort, readStatus, recompute_eq, recompute_eq]
  rfl

/-- Settles O36: in each view the claimed bits are those of the recomputed byte, which is the byte returned. -/
theorem statusReadRecomputesAndAcknowledges : Obligations.StatusReadRecomputesAndAcknowledges := by
  intro s rest h
  refine ⟨s.recompute.status, step_readStatus h, ?_⟩
  cases hv : s.statusView with
  | typeI =>
    simp only [getLsbD_recompute_typeI hv]
    cases s.ready <;> and_intros <;> rfl
  | typeIIandIII =>
    simp only [getLsbD_recompute_typeIIandIII hv]
    cases s.ready <;> and_intros <;> rfl

/-! ### The Track and Sector ports (R133 to R135) -/

/-- The Type II/III tags as R133 lists them. -/
theorem isTransfer_iff (c : CmdType) : c.isTransfer = true ↔
    c = .readSector ∨ c = .readMulti ∨ c = .writeSector ∨ c = .writeMulti ∨ c = .readAddress ∨ c = .readTrack ∨
      c = .writeTrack := by
  cases c <;> decide

/-- R133 and R134: which state turns a write away. -/
theorem pokeRejected_iff (s : State) : s.pokeRejected = true ↔
    s.busy = true ∧ s.cmdType.isTransfer = true ∧ s.config.pokePolicy = .reject := by
  rw [State.pokeRejected, Bool.and_eq_true, Bool.and_eq_true, beq_iff_eq, and_assoc]

/-- R133: a Track write sets TRACK unless it is turned away, and leaves every other field. -/
theorem step_writeTrack {s : State} {rest : List Stimulus} {v : Byte} (h : s.host = .write .track v :: rest) :
    step s = .next (if s.pokeRejected = true then { s with host := rest } else { s with host := rest, track := v }) :=
  step_cons h

/-- R134: the same for SECTOR. -/
theorem step_writeSector {s : State} {rest : List Stimulus} {v : Byte} (h : s.host = .write .sector v :: rest) :
    step s = .next (if s.pokeRejected = true then { s with host := rest } else { s with host := rest, sector := v }) :=
  step_cons h

/-- Settles O37: the condition of the statement is the one under which both ports turn a write away. -/
theorem trackAndSectorWrites : Obligations.TrackAndSectorWrites := by
  intro s rest v
  dsimp only
  rw [← isTransfer_iff, ← pokeRejected_iff]
  refine ⟨fun h => ?_, fun h => ?_⟩
  · rw [step_writeTrack h]
    exact ⟨fun ht => by rw [if_pos ht], fun ht => by rw [if_neg ht]⟩
  · rw [step_writeSector h]
    exact ⟨fun ht => by rw [if_pos ht], fun ht => by rw [if_neg ht]⟩

/-- Settles O38: a step that takes either read is the read of its port, which writes `readValue` alone. -/
theorem trackAndSectorReads : Obligations.TrackAndSectorReads :=
  fun _ _ => ⟨fun h => step_cons h, fun h => step_cons h⟩

end Sys2Proof.Proofs
end

section
/-! PROOFS. The step and arrival events of the Type I commands (spec/42_type1.md R186 to R188). -/

namespace Sys2Proof.Proofs

open Sys2Proof.Machine Sys2Proof.Laws

/-! ### A step of the head (R186) -/

/-- R186: off its target the head moves one track toward it, and TRACK moves the same way, clamped, when the byte in
COMMAND is a Step family byte with u set. -/
theorem moveOneTrack_eq {s : State} (h : s.physicalTrack ≠ s.seekTarget) : s.moveOneTrack =
    { s with
      physicalTrack := if s.physicalTrack < s.seekTarget then s.physicalTrack + 1 else s.physicalTrack - 1
      track :=
        if 0x20 ≤ s.command.toNat ∧ s.command.toNat < 0x80 ∧ s.command.getLsbD 4 = true then
          BitVec.ofNat 8 (min (if s.physicalTrack < s.seekTarget then s.track.toNat + 1 else s.track.toNat - 1)
            s.config.maxTrack)
        else s.track } := by
  have hu : (isStepFamily (decode s.command) && s.flagU) =
      decide (0x20 ≤ s.command.toNat ∧ s.command.toNat < 0x80 ∧ s.command.getLsbD 4 = true) := by
    simp only [isStepFamily_decode, State.flagU, Bool.decide_and, Bool.decide_eq_true, Bool.and_assoc]
  unfold State.moveOneTrack
  simp only [hu, decide_eq_true_eq]
  rcases Nat.lt_or_gt_of_ne h with up | down
  · have head : ((s.physicalTrack : Int) + 1).toNat = s.physicalTrack + 1 := by omega
    simp only [signToward_inward up, clampTrack_inward, head, if_pos up]
  · have head : ((s.physicalTrack : Int) + -1).toNat = s.physicalTrack - 1 := by omega
    simp only [signToward_outward down, clampTrack_outward, head, if_neg (Nat.lt_asymm down)]

/-- Settles O10: the event moves the head off the target by `moveOneTrack_eq`, and `startMotion_eq` then fills the one
slot that the new place of the head asks for. -/
theorem stepEventMovesTheHeadOneTrack : Obligations.StepEventMovesTheHeadOneTrack := by
  intro s rest t hhost hnext hoff
  rw [step_fire hhost hnext, handler, onStepSeek, moveOneTrack_eq (by exact hoff), startMotion_eq]
  simp only [put_put, State.stepDelay, rateField, eq_comm (a := s.seekTarget)]

/-! ### The arrival (R187, R188) -/

/-- STATUS after the arrival, before the verify: what RESTORE writes, then TRACK00 (R187). -/
def arrivedStatus (v : Byte) (restore track0 : Bool) : Byte :=
  setBit (if restore = true then
    setBit (setBit (setBit v bitSeekOrRecord false) bitCrcErr false) bitIndexOrDrq true else v) bitTrack0OrLost track0

/-- STATUS at the end of a Type I command: SEEK-ERR after a failed verify, BUSY clear (R160, R161, R188). -/
def arrivalStatus (v : Byte) (restore track0 failed : Bool) : Byte :=
  setBit (if failed = true then setBit (arrivedStatus v restore track0) bitSeekOrRecord true
    else arrivedStatus v restore track0) bitBusy false

theorem getLsbD_arrivalStatus (v : Byte) (restore track0 failed : Bool) (j : Nat) :
    (arrivalStatus v restore track0 failed).getLsbD j =
      if j = bitBusy then false
      else if failed = true ∧ j = bitSeekOrRecord then true
      else if j = bitTrack0OrLost then track0
      else if restore = true ∧ j = bitIndexOrDrq then true
      else if restore = true ∧ (j = bitCrcErr ∨ j = bitSeekOrRecord) then false
      else v.getLsbD j := by
  have busy w b := getLsbD_setBit w bitBusy j b (by decide)
  have index w b := getLsbD_setBit w bitIndexOrDrq j b (by decide)
  have track w b := getLsbD_setBit w bitTrack0OrLost j b (by decide)
  have crc w b := getLsbD_setBit w bitCrcErr j b (by decide)
  have seek w b := getLsbD_setBit w bitSeekOrRecord j b (by decide)
  rw [arrivalStatus, arrivedStatus, busy]
  cases restore <;> cases failed <;>
    simp only [seek, track, index, crc, if_true, Bool.false_eq_true, if_false, true_and, false_and, ite_or]

/-- TRACK after the arrival: 0 for RESTORE, the target for SEEK (R187). -/
def arrivalTrack (s : State) : Byte :=
  if s.command.toNat < 0x10 then 0 else if s.command.toNat < 0x20 then BitVec.ofNat 8 s.seekTarget else s.track

/-- R188: no id can be read under the head, or the one there is of another track than `track`. -/
def verifyFails (s : State) (track : Byte) : Bool :=
  match s.unit.geometry s.physicalTrack with
  | none => true
  | some g => match s.unit.sectorId s.physicalTrack s.side (s.rotationCursor % g.sectors) with
    | none => true
    | some id => id.trk != track.toNat

/-- The cursor at the end of a Type I command: with V it passed the id under the head, where the track has geometry
(R188). -/
def arrivalCursor (s : State) : Nat :=
  match s.unit.geometry s.physicalTrack with
  | none => s.rotationCursor
  | some g => if s.flagV = true then (s.rotationCursor % g.sectors + 1) % g.sectors else s.rotationCursor

theorem arrivalCursor_of_no_verify {s : State} (h : s.flagV = false) : arrivalCursor s = s.rotationCursor := by
  rw [arrivalCursor, h]
  cases s.unit.geometry s.physicalTrack <;> rfl

/-- The state the verify sees: arrived, TRACK00 written, the settle owed (R187). -/
def arrived (s : State) : State :=
  { s with
    status := arrivedStatus s.status (decide (s.command.toNat < 0x10)) (s.physicalTrack == 0)
    track := arrivalTrack s
    headEngaged := decide (s.command.toNat < 0x10) || s.headEngaged
    indexCtr := if s.command.toNat < 0x10 then 0 else s.indexCtr
    settlePending := true }

theorem verify_of_flagV {s : State} (h : s.flagV = true) :
    s.verify = ({ s with rotationCursor := arrivalCursor s }, !verifyFails s s.track) := by
  rw [verify_eq, verifyFails, arrivalCursor, h]
  cases s.unit.geometry s.physicalTrack with
  | none => rfl
  | some g =>
    dsimp only
    cases s.unit.sectorId s.physicalTrack s.side (s.rotationCursor % g.sectors) with
    | none => rfl
    | some id => exact congrArg (Prod.mk _) (Bool.not_not _).symm

/-- R187 and R188 as one record: without V the command just ends, with V the verify decides on SEEK-ERR. -/
theorem onSeekEnd_eq (s : State) : onSeekEnd s =
    { arrived s with
      rotationCursor := arrivalCursor s
      status := arrivalStatus s.status (decide (s.command.toNat < 0x10)) (s.physicalTrack == 0)
        (s.flagV && verifyFails s (arrivalTrack s))
      irq := true
      drq := false
      xferDir := .none
      cmdType := .idle
      phase := .idle
      slots := Slots.empty } := by
  have settled : { s.arrive with
      status := setBit s.arrive.status bitTrack0OrLost (s.arrive.physicalTrack == 0)
      settlePending := true } = arrived s := by
    simp only [arrive_eq, arrived, arrivedStatus, decide_eq_true_eq, arrivalTrack]
  have flag : (arrived s).flagV = s.flagV := rfl
  unfold onSeekEnd
  dsimp only
  rw [settled, flag]
  cases hV : s.flagV with
  | false =>
    rw [arrivalCursor_of_no_verify hV]
    rfl
  | true =>
    have verified : (arrived s).verify =
        ({ arrived s with rotationCursor := arrivalCursor s }, !verifyFails s (arrivalTrack s)) :=
      verify_of_flagV hV
    rw [verified]
    cases verifyFails s (arrivalTrack s) <;> rfl

/-- Settles O11: STATUS ends as `arrivalStatus`, whose bits are known one by one; TRACK, the verify and the cursor of
the statement are `arrivalTrack`, `verifyFails` and `arrivalCursor`. -/
theorem arrivalEndsATypeICommand : Obligations.ArrivalEndsATypeICommand := by
  intro s rest t hhost hnext
  extract_lets restore seek track checks failed
  have htrack : track = arrivalTrack s := by
    unfold track arrivalTrack
    simp only [restore, seek, decide_eq_true_eq]
    by_cases hr : s.command.toNat < 0x10
    · simp only [hr, if_true]
    · simp only [hr, if_false, Nat.not_lt.mp hr, true_and]
  have hfailed : failed = (s.flagV && verifyFails s track) := rfl
  refine ⟨arrivalStatus s.status restore (s.physicalTrack == 0) failed, ?_, ?_⟩
  · rw [step_fire hhost hnext, handler, onSeekEnd_eq, hfailed, htrack]
    simp only [restore, decide_eq_true_eq]
    rfl
  · simp only [getLsbD_arrivalStatus]
    cases restore <;> cases failed <;> and_intros <;> rfl

end Sys2Proof.Proofs
end

section
/-! PROOFS. The last byte of a read record and the ends it leads to (spec/43_type2.md R216, spec/44_type3.md R243 and
R246, spec/46_transfer.md R293 and R295). -/

namespace Sys2Proof.Proofs

open Sys2Proof.Machine Sys2Proof.Laws

/-! ### The ends of a read record (R216, R243, R246) -/

/-- R216: the medium has a CRC for the record, it is not the computed one, and `IGNORE_CRC` does not hide that. -/
def CrcMismatch (s : State) : Prop :=
  s.config.ignoreCrc = false ∧ ∃ c, s.unit.readStoredCrc s.recTrack s.recSide s.recSector = some c ∧ c ≠ s.crcAcc

theorem endReadRecord_of_mismatch {s : State} (h : CrcMismatch s) :
    endReadRecord s = (s.cancel .dataLoss).abort [.crcErr] := by
  obtain ⟨hcheck, c, hstored, hne⟩ := h
  rw [endReadRecord_some hstored, if_pos ⟨hcheck, hne⟩]

theorem endReadRecord_of_no_mismatch {s : State} (h : ¬ CrcMismatch s) :
    endReadRecord s =
      if s.cmdType = .readMulti then
        State.schedule { s.cancel .dataLoss with phase := .searching } .multi1 s.config.delays.multi1
      else (s.cancel .dataLoss).complete := by
  rcases endReadRecord_cases s with ⟨-, mismatch⟩ | ⟨-, goesOn⟩
  · exact absurd mismatch h
  · exact goesOn

/-- R295: the tags whose record ends by R216. -/
theorem endOfRecord_readRecord {s : State} (tag : s.cmdType = .readSector ∨ s.cmdType = .readMulti) :
    endOfRecord s = endReadRecord s := by
  rw [endOfRecord]
  rcases tag with tag | tag <;> rw [tag]

/-- R295: the tags whose record ends by R243 or R246. -/
theorem endOfRecord_readImage {s : State} (tag : s.cmdType = .readAddress ∨ s.cmdType = .readTrack) :
    endOfRecord s = (s.cancel .dataLoss).complete := by
  rw [endOfRecord]
  rcases tag with tag | tag <;> rw [tag] <;> rfl

theorem endOfRecord_of_mismatch {s : State} (tag : s.cmdType = .readSector ∨ s.cmdType = .readMulti)
    (h : CrcMismatch s) : endOfRecord s = (s.cancel .dataLoss).abort [.crcErr] :=
  (endOfRecord_readRecord tag).trans (endReadRecord_of_mismatch h)

theorem endOfRecord_readSector {s : State} (tag : s.cmdType = .readSector) (h : ¬ CrcMismatch s) :
    endOfRecord s = (s.cancel .dataLoss).complete := by
  rw [endOfRecord_readRecord (.inl tag), endReadRecord_of_no_mismatch h, if_neg (by rw [tag]; decide)]

theorem endOfRecord_readMulti {s : State} (tag : s.cmdType = .readMulti) (h : ¬ CrcMismatch s) :
    endOfRecord s =
      State.schedule { s.cancel .dataLoss with phase := .searching } .multi1 s.config.delays.multi1 := by
  rw [endOfRecord_readRecord (.inr tag), endReadRecord_of_no_mismatch h, if_pos tag]

/-! ### A Data read that takes the last byte (R137, R293) -/

/-- The tags whose session a Data read drains, as R137 lists them. -/
theorem isRead_iff (c : CmdType) : c.isRead = true ↔
    c = .readSector ∨ c = .readMulti ∨ c = .readAddress ∨ c = .readTrack := by
  cases c <;> decide

/-- R137: in a read session the Data port serves the next byte. -/
theorem step_readData {s : State} {rest : List Stimulus} (hhost : s.host = .read .data :: rest)
    (hread : s.cmdType.isRead = true) (hdrq : s.drq = true) :
    step s = .next { transferReadByte { s with host := rest } with readValue := some s.nextByte } := by
  have draining : (s.cmdType.isRead && s.drq) = true := by rw [hread, hdrq, Bool.and_self]
  rw [step_cons hhost, takeStimulus, readPort]
  exact congrArg _ (if_pos draining)

/-- What the end of record sees: the last byte `b` counted and fed to the CRC, DRQ down, the session closed (R293). -/
def lastByteTaken (s : State) (rest : List Stimulus) (b : Byte) : State :=
  { s with
    host := rest
    xferPos := s.xferPos + 1
    crcAcc := if s.xferCrcOn = true then crcStep s.crcAcc b else s.crcAcc
    drq := false
    xferDir := .none }

/-- R293 and R295 as one step: the byte is returned and the record ends, in the state `t`. -/
theorem step_readLastByte {s t : State} {rest : List Stimulus} {b : Byte} (hhost : s.host = .read .data :: rest)
    (hdrq : s.drq = true) (hb : s.xferBuf[s.xferPos]? = some b) (hlast : s.xferPos + 1 = s.xferLen)
    (hread : s.cmdType = .readSector ∨ s.cmdType = .readMulti ∨ s.cmdType = .readAddress ∨ s.cmdType = .readTrack)
    (ends : endOfRecord (lastByteTaken s rest b) = t) :
    step s = .next { t with readValue := some b } := by
  have closed : transferReadByte { s with host := rest } = endOfRecord (lastByteTaken s rest b) :=
    transferReadByte_last hb hlast
  rw [step_readData hhost ((isRead_iff _).mpr hread) hdrq, closed, ends, nextByte_eq hb]

/-- Settles O25: `step_readLastByte` hands the record to its end, which is `complete` for an address or an image, and
which `CrcMismatch` decides for a sector. -/
theorem lastByteOfAReadRecord : Obligations.LastByteOfAReadRecord := by
  intro s rest b hhost hdrq hb hlast
  extract_lets crc s' bad
  have lastByte {t : State} := step_readLastByte (t := t) hhost hdrq hb hlast
  refine ⟨fun tag => ?image, fun tag mismatch => ?crcError, fun tag good => ?sectorEnd, fun tag good => ?goesOn⟩
  case image => exact lastByte (.inr (.inr tag)) (endOfRecord_readImage tag)
  case crcError => exact lastByte (tag.imp_right .inl) (endOfRecord_of_mismatch tag mismatch)
  case sectorEnd => exact lastByte (.inl tag) (endOfRecord_readSector tag good)
  case goesOn => exact lastByte (.inr (.inl tag)) (endOfRecord_readMulti tag good)

end Sys2Proof.Proofs
end

section
/-! PROOFS. The SEARCH events of READ_ADDRESS and WRITE_TRACK (spec/44_type3.md R242 and R248). -/

namespace Sys2Proof.Proofs

open Sys2Proof.Machine Sys2Proof.Laws

/-! ### The ends of a search that finds nothing (R161) -/

/-- R161 for RECNFND. -/
theorem abort_recordNotFound (s : State) : s.abort [.recordNotFound] = ended s (s.status ||| 0x10) := rfl

/-- R161 for WRITE-FAULT. -/
theorem abort_writeFault (s : State) : s.abort [.writeFault] = ended s (s.status ||| 0x20) := rfl

/-! ### The firing (R335) -/

/-- What the handler of a SEARCH event sees: the firing taken from the queue, the event out of its slot at its time. -/
def searchTaken (s : State) (rest : List Stimulus) (t : Nat) : State :=
  { s with host := rest, now := t, slots := s.slots.put .search none }

theorem step_search {s : State} {rest : List Stimulus} {t : Nat} (hhost : s.host = .fire :: rest)
    (hnext : s.slots.next = some (.search, ⟨t, s.cmdType⟩)) : step s = .next (onSearch (searchTaken s rest t)) :=
  step_fire hhost hnext

/-! ### READ_ADDRESS (R242) -/

theorem onSearch_readAddress {s : State} (tag : s.cmdType = .readAddress) : onSearch s = readAddressSearch s := by
  rw [onSearch, tag]

theorem readAddressSearch_unreadable {s : State} (hg : s.unit.geometry s.physicalTrack = none) :
    readAddressSearch s = s.abort [.recordNotFound] := by
  rw [readAddressSearch, hg]

/-- The cursor passes the position even where it has no id. -/
theorem readAddressSearch_no_id {s : State} {g : Zone} (hg : s.unit.geometry s.physicalTrack = some g)
    (hid : s.unit.sectorId s.physicalTrack s.side (s.rotationCursor % g.sectors) = none) :
    readAddressSearch s =
      State.abort { s with rotationCursor := (s.rotationCursor % g.sectors + 1) % g.sectors } [.recordNotFound] := by
  rw [readAddressSearch, hg]
  dsimp only
  rw [hid]

theorem readAddressSearch_id {s : State} {g : Zone} {id : SectorId}
    (hg : s.unit.geometry s.physicalTrack = some g)
    (hid : s.unit.sectorId s.physicalTrack s.side (s.rotationCursor % g.sectors) = some id) :
    readAddressSearch s = openRead s.physicalTrack s.side id.sec 0 (idRecord id) false
      { s with rotationCursor := (s.rotationCursor % g.sectors + 1) % g.sectors, phase := .transferring } := by
  rw [readAddressSearch, hg]
  dsimp only
  rw [hid]

/-- The id record as its six bytes, the CRC high byte first. -/
theorem idRecord_eq (id : SectorId) : idRecord id = BitVec.ofNat 8 id.trk ::
    [id.sd, id.sec, id.code, (crc16 (idBytes id)).extractLsb' 8 8, (crc16 (idBytes id)).extractLsb' 0 8] := rfl

/-- Settles O31: `readAddressSearch` has one lemma for each of the three cases, and an id record is never empty, so
`openRead_cons` gives the session. -/
theorem readAddressServesTheIdUnderTheHead : Obligations.ReadAddressServesTheIdUnderTheHead := by
  intro s rest t hhost hnext tag
  rw [step_search hhost hnext, onSearch_readAddress (by exact tag)]
  refine ⟨fun unreadable => ?_, fun g hg => ⟨fun noId => ?_, fun id hid => ?_⟩⟩
  · rw [readAddressSearch_unreadable (by exact unreadable), abort_recordNotFound]
    rfl
  · rw [readAddressSearch_no_id (by exact hg) (by exact noId), abort_recordNotFound]
    rfl
  · rw [readAddressSearch_id (by exact hg) (by exact hid), idRecord_eq, openRead_cons]
    rfl

/-! ### WRITE_TRACK (R248) -/

theorem onSearch_writeTrack {s : State} (tag : s.cmdType = .writeTrack) : onSearch s = writeTrackSearch s := by
  rw [onSearch, tag]

theorem writeTrackSearch_unreadable {s : State} (hg : s.unit.geometry s.physicalTrack = none) :
    writeTrackSearch s = s.abort [.writeFault] := by
  rw [writeTrackSearch, hg]

theorem writeTrackSearch_readable {s : State} {g : Zone} (hg : s.unit.geometry s.physicalTrack = some g) :
    writeTrackSearch s = openWrite s.physicalTrack s.side 0 (s.unit.locate s.physicalTrack s.side 0)
      (s.writeTrackLength s.physicalTrack) false { s with phase := .writingTrack } := by
  rw [writeTrackSearch, hg]

/-- `WT_LEN(t)` where the configuration lists the track (R6). -/
theorem writeTrackLength_listed {s : State} {t : Nat} {e : Nat × Nat}
    (h : s.config.wtLen.find? (fun e => e.1 == t) = some e) : s.writeTrackLength t = e.2 := by
  rw [State.writeTrackLength, h]

/-- `WT_LEN(t)` by default: the bytes of the track (R6, R68). -/
theorem writeTrackLength_default {s : State} {t : Nat} {g : Zone}
    (h : s.config.wtLen.find? (fun e => e.1 == t) = none) (hg : s.unit.geometry t = some g) :
    s.writeTrackLength t = g.sectors * g.size := by
  rw [State.writeTrackLength, h]
  dsimp only
  rw [MediaUnit.trackBytes, hg]

/-- Settles O33: the length of the statement is `writeTrackLength`, listed or by default, and as it is not 0
`openWrite_pos` gives the session. -/
theorem writeTrackAsksForTheTrackImage : Obligations.WriteTrackAsksForTheTrackImage := by
  intro s rest t hhost hnext tag
  rw [step_search hhost hnext, onSearch_writeTrack (by exact tag)]
  refine ⟨fun unreadable => ?_, fun g hg => ?_⟩
  · rw [writeTrackSearch_unreadable (by exact unreadable), abort_writeFault]
    rfl
  · intro len positive
    have length : (searchTaken s rest t).writeTrackLength s.physicalTrack = len := by
      unfold len
      cases listed : s.config.wtLen.find? (fun e => e.1 == s.physicalTrack) with
      | some e => exact writeTrackLength_listed listed
      | none => exact writeTrackLength_default listed hg
    rw [writeTrackSearch_readable (by exact hg), openWrite_pos (h := length.symm ▸ positive), ← length]
    rfl

end Sys2Proof.Proofs
end

section
/-! PROOFS. The Type IV command and its re-arm event (spec/45_type4.md R270 to R274). -/

namespace Sys2Proof.Proofs

open Sys2Proof.Machine Sys2Proof.Laws

/-! ### FORCE_INTERRUPT (R270 to R273) -/

/-- R98: the conditions a Force Interrupt acts on are the ones its byte carries. -/
theorem conditions_accept_forceInterrupt (s : State) (cond : BitVec 4) :
    (s.accept (.forceInterrupt cond)).conditions = cond := by
  have condField_encode : ∀ cond, condField (encode (.forceInterrupt cond)) = cond := by decide
  exact condField_encode cond

theorem latchUpdate_eq (prev : CmdType) (latch cond : BitVec 4) : latchUpdate prev latch cond =
    if prev = .idle ∨ prev = .forceInterrupt then latch ^^^ cond else cond := by
  cases prev <;> rfl

/-- What `fi_signal` sees of an accepted Force Interrupt: every event and session gone, BUSY clear, the Type IV cycle
entered with the updated latch (R270). -/
def interrupted (s : State) (cond latch : BitVec 4) : State :=
  { s with
    command := encode (.forceInterrupt cond)
    intLatch := latch
    irq := false
    drq := false
    xferDir := .none
    statusView := if s.cmdType = .idle then .typeI else s.statusView
    cmdType := .forceInterrupt
    phase := .forceInterrupt
    status := s.status &&& 0xFE
    slots := Slots.empty }

theorem forceInterrupt_accept (s : State) (cond : BitVec 4) : (s.accept (.forceInterrupt cond)).forceInterrupt =
    (interrupted s cond (latchUpdate s.cmdType s.intLatch cond)).fiSignal := by
  rw [State.forceInterrupt, conditions_accept_forceInterrupt]
  rfl

/-- R272, R273 with IRQ and the timeline clear, as R270 leaves them: IRQ is I3, and no event but the re-arm timer can
be pending. -/
theorem fiSignal_interrupted (s : State) (cond latch : BitVec 4) : (interrupted s cond latch).fiSignal =
    { interrupted s cond latch with
      irq := latch.getLsbD 3
      fiReadyRef := if latch.getLsbD 3 = false ∧ latch ≠ 0 then s.ready else s.fiReadyRef
      slots :=
        if latch.getLsbD 3 = false ∧ latch ≠ 0 then
          Slots.only .fiRearm ⟨s.now + s.config.delays.fi, .forceInterrupt⟩
        else Slots.empty } := by
  have irq_eq : ((interrupted s cond latch).intLatch.getLsbD 3 || (interrupted s cond latch).irq) =
      latch.getLsbD 3 := Bool.or_false _
  rw [fiSignal_eq, irq_eq]
  rfl

/-- Settles O34: a Force Interrupt passes the BUSY gate (`acceptCommand_free`), `latchUpdate_eq` gives the latch, and
`fiSignal_interrupted` what is done for it. -/
theorem forceInterruptIsServedInEveryState : Obligations.ForceInterruptIsServedInEveryState := by
  intro s cond latch arms
  have latched : latchUpdate s.cmdType s.intLatch cond = latch := latchUpdate_eq _ _ _
  rw [exec_eq, acceptCommand_free (.inr rfl), body, forceInterrupt_accept, latched, fiSignal_interrupted]
  rfl

/-! ### FI_REARM (R274) -/

/-- The condition as R274 words it: an index pulse under I2, not-ready to ready under I0, ready to not-ready under
I1. -/
theorem fiCondition_iff (latch : BitVec 4) (before after : Bool) : fiCondition latch before after = true ↔
    latch.getLsbD 2 = true ∨ (latch.getLsbD 0 = true ∧ before = false ∧ after = true) ∨
      (latch.getLsbD 1 = true ∧ before = true ∧ after = false) := by
  simp only [fiCondition, Bool.or_eq_true, Bool.and_eq_true, Bool.not_eq_true', and_assoc, or_assoc]

/-- Settles O35: the handler signals or polls again (`onFiRearm_cases`) as `fiCondition_iff` decides; the event has left
its slot before, so it is pending afterwards only when it polls again. -/
theorem rearmEventWaitsForItsCondition : Obligations.RearmEventWaitsForItsCondition := by
  intro s rest t hhost hnext met
  have condition : fiCondition s.intLatch s.fiReadyRef s.ready = true ↔ met := fiCondition_iff _ _ _
  rw [step_fire hhost hnext, handler]
  rcases onFiRearm_cases { s with host := rest, now := t, slots := s.slots.put .fiRearm none } with
    ⟨signals, result⟩ | ⟨polls, result⟩
  · have hmet : met := condition.mp signals
    rw [result]
    exact ⟨fun _ => rfl, fun hnot => absurd hmet hnot⟩
  · have hnot : ¬ met := mt condition.mpr (Bool.eq_false_iff.mp polls)
    rw [result, put_put]
    exact ⟨fun hmet => absurd hmet hnot, fun _ => rfl⟩

end Sys2Proof.Proofs
end

section
/-! PROOFS. The watchdog of an open session (spec/46_transfer.md R298). -/

namespace Sys2Proof.Proofs

open Sys2Proof.Machine Sys2Proof.Laws

/-- R161 for LOSTDATA. -/
theorem abort_lostData (s : State) : s.abort [.lostData] = ended s (s.status ||| 0x04) := rfl

/-- R298: the handler is the abort with LOSTDATA, whatever the command in force. -/
theorem handler_dataLoss (s : State) : handler .dataLoss s = ended s (s.status ||| 0x04) := by
  rw [handler, onDataLoss, abort_lostData]

/-- An ended command leaves no event pending, so the slots before its end do not matter (R160, R334). -/
theorem ended_slots (s : State) (q : Slots) (v : Byte) : ended { s with slots := q } v = ended s v := rfl

/-- Settles O30: the event is live, so its handler runs (`step_fire`) and aborts with LOSTDATA (`handler_dataLoss`); that
the event has left its slot before is lost in the emptied timeline (`ended_slots`). -/
theorem dataLossEndsTheCommand : Obligations.DataLossEndsTheCommand := by
  intro s rest t hhost hnext
  calc step s
      = .next (handler .dataLoss { s with host := rest, now := t, slots := s.slots.put .dataLoss none }) :=
        step_fire hhost hnext
    _ = .next (ended { s with host := rest, now := t, slots := s.slots.put .dataLoss none } (s.status ||| 0x04)) := by
        rw [handler_dataLoss]
    _ = .next (ended { s with host := rest, now := t } (s.status ||| 0x04)) := by
        rw [← ended_slots { s with host := rest, now := t }]

end Sys2Proof.Proofs
end

section
/-! PROOFS. Scheduling and cancelling events (spec/48_scheduler.md R332 to R334). -/

namespace Sys2Proof.Proofs

open Sys2Proof.Machine Sys2Proof.Laws

/-- Emptying an empty slot leaves what every kind holds, hence the slots, as they are. -/
theorem put_none_of_get_eq_none {q : Slots} {k : EventKind} (empty : q.get k = none) : q.put k none = q := by
  refine slots_ext fun k' => ?_
  rw [get_put]
  split
  case isTrue same => rw [same, empty]
  case isFalse => rfl

/-- R333: cancelling an empty slot does nothing. -/
theorem cancel_of_get_eq_none {s : State} {k : EventKind} (empty : s.slots.get k = none) : s.cancel k = s := by
  rw [State.cancel, put_none_of_get_eq_none empty]

/-- Settles O44: each operation writes the slots alone, `get_put` and `get_empty` say what a kind holds afterwards, and
`cancel_of_get_eq_none` is the case of the empty slot. -/
theorem scheduleReplacesAndCancelEmpties : Obligations.ScheduleReplacesAndCancelEmpties := by
  intro s k k' d
  have scheduled : (s.schedule k d).slots.get k' =
      if k' = k then some ⟨s.now + d, s.cmdType⟩ else s.slots.get k' := by
    rw [schedule_slots, get_put]
  have cancelled : (s.cancel k).slots.get k' = if k' = k then none else s.slots.get k' := by
    rw [cancel_slots, get_put]
  have allCancelled : s.cancelAll.slots.get k' = none := by
    rw [cancelAll_slots, get_empty]
  exact ⟨rfl, scheduled, rfl, cancelled, cancel_of_get_eq_none, rfl, allCancelled⟩

end Sys2Proof.Proofs
end

section
/-! PROOFS. The stimulus RESET (spec/70_reset_and_hazards.md R400). -/

namespace Sys2Proof.Proofs

open Sys2Proof.Machine Sys2Proof.Laws

/-- A step that takes RESET is the reset of the block, with the stimuli still to come left in the queue (R11, R400). -/
theorem step_reset {s : State} {rest : List Stimulus} (h : s.host = .reset :: rest) :
    step s = .next { s.resetBlock with host := rest } :=
  step_cons h

/-- Settles O51: the step is the reset of the block (`step_reset`), which writes the values of `State.reset` (R43) over
every field but the inputs, the parameters, the media and what the outside world holds. -/
theorem resetStimulusRestoresTheResetState : Obligations.ResetStimulusRestoresTheResetState := by
  intro s rest hhost
  rw [step_reset hhost, State.resetBlock, State.reset]

end Sys2Proof.Proofs
end

section
/-! PROOFS. The encoder and the decoder undo each other (spec/30_encoding.md R92 to R100). -/

namespace Sys2Proof.Proofs

/-- A command of each row reads back from its byte, with every operand bit. -/
theorem decode_encode (i : Instr) : decode (encode i) = i := by
  cases i with
  | restore h v r => revert h v r; decide
  | seek h v r => revert h v r; decide
  | step u h v r => revert u h v r; decide
  | stepIn u h v r => revert u h v r; decide
  | stepOut u h v r => revert u h v r; decide
  | readSector sd e c x0 => revert sd e c x0; decide
  | readMultiple sd e c x0 => revert sd e c x0; decide
  | writeSector sd e c a0 => revert sd e c a0; decide
  | writeMultiple sd e c a0 => revert sd e c a0; decide
  | readAddress x3 e x1 x0 => revert x3 e x1 x0; decide
  | forceInterrupt cond => revert cond; decide
  | readTrack x3 e x1 x0 => revert x3 e x1 x0; decide
  | writeTrack x3 e x1 x0 => revert x3 e x1 x0; decide

/-- Settles O1: `decode_encode`, row by row. -/
theorem decodeOfEncodeIsTheInstruction : Obligations.DecodeOfEncodeIsTheInstruction :=
  fun i _ => decode_encode i

/-- Settles O2, over the 256 bytes. -/
theorem encodeOfDecodeIsTheByte : Obligations.EncodeOfDecodeIsTheByte := by
  unfold Obligations.EncodeOfDecodeIsTheByte
  decide

/-- Settles O4: each word is decoded. -/
theorem wordsOfTheSpecDecode : Obligations.WordsOfTheSpecDecode := by
  unfold Obligations.WordsOfTheSpecDecode
  and_intros <;> rfl

/-- Where the operand fields of a command stand in its byte (R94, R96, R97, R98). -/
def FieldsAt (b : Byte) : Instr → Prop
  | .restore h v r => h = b.getLsbD 3 ∧ v = b.getLsbD 2 ∧ r = b.extractLsb' 0 2
  | .seek h v r => h = b.getLsbD 3 ∧ v = b.getLsbD 2 ∧ r = b.extractLsb' 0 2
  | .step u h v r => u = b.getLsbD 4 ∧ h = b.getLsbD 3 ∧ v = b.getLsbD 2 ∧ r = b.extractLsb' 0 2
  | .stepIn u h v r => u = b.getLsbD 4 ∧ h = b.getLsbD 3 ∧ v = b.getLsbD 2 ∧ r = b.extractLsb' 0 2
  | .stepOut u h v r => u = b.getLsbD 4 ∧ h = b.getLsbD 3 ∧ v = b.getLsbD 2 ∧ r = b.extractLsb' 0 2
  | .readSector sd e c x0 => sd = b.getLsbD 3 ∧ e = b.getLsbD 2 ∧ c = b.getLsbD 1 ∧ x0 = b.getLsbD 0
  | .readMultiple sd e c x0 => sd = b.getLsbD 3 ∧ e = b.getLsbD 2 ∧ c = b.getLsbD 1 ∧ x0 = b.getLsbD 0
  | .writeSector sd e c a0 => sd = b.getLsbD 3 ∧ e = b.getLsbD 2 ∧ c = b.getLsbD 1 ∧ a0 = b.getLsbD 0
  | .writeMultiple sd e c a0 => sd = b.getLsbD 3 ∧ e = b.getLsbD 2 ∧ c = b.getLsbD 1 ∧ a0 = b.getLsbD 0
  | .readAddress x3 e x1 x0 => x3 = b.getLsbD 3 ∧ e = b.getLsbD 2 ∧ x1 = b.getLsbD 1 ∧ x0 = b.getLsbD 0
  | .forceInterrupt cond => cond = b.extractLsb' 0 4
  | .readTrack x3 e x1 x0 => x3 = b.getLsbD 3 ∧ e = b.getLsbD 2 ∧ x1 = b.getLsbD 1 ∧ x0 = b.getLsbD 0
  | .writeTrack x3 e x1 x0 => x3 = b.getLsbD 3 ∧ e = b.getLsbD 2 ∧ x1 = b.getLsbD 1 ∧ x0 = b.getLsbD 0

/-- Whichever row the decoder takes, it takes the fields from their places. -/
theorem fieldsAt_decode (b : Byte) : FieldsAt b (decode b) := by
  unfold decode
  split <;> and_intros <;> rfl

theorem fieldsAt_encode (i : Instr) : FieldsAt (encode i) i := by
  have decoded := fieldsAt_decode (encode i)
  rwa [decode_encode] at decoded

/-- Settles O5: `fieldsAt_decode`, read for each command of a format. -/
theorem formatsPlaceTheFields : Obligations.FormatsPlaceTheFields := by
  intro b
  have fields {i : Instr} (h : decode b = i) : FieldsAt b i := h ▸ fieldsAt_decode b
  refine ⟨?typeI, ?stepFamily, ?typeII, ?typeIII, fun _ h => fields h⟩
  case typeI => rintro _ _ _ (h | h) <;> exact fields h
  case stepFamily => rintro _ _ _ _ (h | h | h) <;> exact fields h
  case typeII => rintro _ _ _ _ (h | h | h | h) <;> exact fields h
  case typeIII => rintro _ _ _ _ (h | h | h) <;> exact fields h

end Sys2Proof.Proofs
end

section
/-! PROOFS. The acceptance of a command write (spec/41_dispatch.md R150, spec/70_reset_and_hazards.md R403), and what a
step adds to it (spec/40_bus_interface.md R130). -/

namespace Sys2Proof.Proofs

open Sys2Proof.Machine Sys2Proof.Laws

theorem isForceInterrupt_eq_false {i : Instr} (h : ∀ cond, i ≠ .forceInterrupt cond) : isForceInterrupt i = false := by
  cases i with
  | forceInterrupt cond => exact absurd rfl (h cond)
  | _ => rfl

theorem isForceInterrupt_eq_true {i : Instr} (h : isForceInterrupt i = true) : ∃ cond, i = .forceInterrupt cond := by
  cases i with
  | forceInterrupt cond => exact ⟨cond, rfl⟩
  | _ => cases h

/-- R150: a block that is not BUSY accepts every command. -/
theorem exec_of_not_busy {s : State} (i : Instr) (free : s.busy = false) : exec i s = .next (body i (s.accept i)) := by
  rw [exec_eq, acceptCommand_free (.inl free)]

/-- R403: while BUSY a command other than a Force Interrupt is ignored. -/
theorem exec_of_busy {s : State} {i : Instr} (busy : s.busy = true) (other : isForceInterrupt i = false) :
    exec i s = .next s := by
  rw [exec_eq, acceptCommand_busy busy other]

/-- Settles O6: the placed byte is the port-0 write that stands first, and `step_cons` hands it to `exec`. -/
theorem stepRunsTheDecodedCommand : Obligations.StepRunsTheDecodedCommand := by
  refine ⟨fun s v rest hhost => step_cons hhost, fun s w => ?_⟩
  have byte : tableByte 8 w = BitVec.ofNat 8 w := BitVec.eq_of_toNat_eq (by simp [tableByte])
  rw [← byte]
  exact step_cons (s := s.withFetchWord 8 w) rfl

/-- Settles O7: the BUSY gate. -/
theorem commandWhileBusyIsIgnored : Obligations.CommandWhileBusyIsIgnored :=
  fun _ _ busy other => exec_of_busy busy (isForceInterrupt_eq_false other)

/-! ### COMMAND after an accepted write (R22, R150) -/

theorem startMotion_command (s : State) : s.startMotion.command = s.command := by rw [startMotion_eq]

theorem prologue_command (s : State) : s.prologue.command = s.command := by
  rcases prologue_cases s with ⟨_, e⟩ | ⟨_, _, _, e⟩ | ⟨_, _, _, _, _, e⟩ | ⟨_, _, _, e⟩ <;> rw [e] <;> rfl

theorem forceInterrupt_command (s : State) : s.forceInterrupt.command = s.command := by
  rw [State.forceInterrupt, fiSignal_eq]; rfl

/-- No command's effect writes COMMAND. -/
theorem body_command (i : Instr) (s : State) : (body i s).command = s.command := by
  cases i with
  | forceInterrupt cond => exact forceInterrupt_command s
  | restore h v r => exact startMotion_command _
  | seek h v r => exact startMotion_command _
  | step u h v r => exact startMotion_command _
  | stepIn u h v r => exact startMotion_command _
  | stepOut u h v r => exact startMotion_command _
  | _ => exact prologue_command _

/-- Settles O8: `exec_cases` gives the two ways, and the effect of an accepted command keeps the byte (`body_command`). -/
theorem everyCommandWriteCompletes : Obligations.EveryCommandWriteCompletes := by
  intro i s
  rcases exec_cases i s with ⟨ignored, busy, other⟩ | ⟨accepted, free⟩
  · refine ⟨s, ignored, .inl ⟨rfl, busy, fun cond h => ?_⟩⟩
    rw [h] at other
    cases other
  · exact ⟨_, accepted, .inr ⟨body_command i _, free.imp_right isForceInterrupt_eq_true⟩⟩

end Sys2Proof.Proofs
end

section
/-! PROOFS. The dispatch of the Type I commands (spec/42_type1.md R180 to R185). -/

namespace Sys2Proof.Proofs

open Sys2Proof.Machine Sys2Proof.Laws

/-- What a command's own part sees of an accepted Type I command with byte `b` (R151, R180). -/
def typeIAccepted (s : State) (b : Byte) : State :=
  { s with
    command := b
    irq := false
    drq := false
    xferDir := .none
    status := if s.ready = true then 0x01 else 0x81
    cmdType := .seek
    statusView := .typeI
    phase := .seeking
    headEngaged := b.getLsbD 3
    slots := Slots.empty }

theorem dispatchTypeI_accept (s : State) (i : Instr) (part : State → State) :
    (s.accept i).dispatchTypeI part = (part (typeIAccepted s (encode i))).startMotion := by
  have accepted : { ((s.accept i).dispatch .seek).viewTypeI with
      phase := .seeking
      headEngaged := ((s.accept i).dispatch .seek).viewTypeI.flagH } = typeIAccepted s (encode i) := by
    simp only [State.dispatch, State.viewTypeI, State.accept, State.cancelAll, dispatchStatus_eq]
    rfl
  unfold State.dispatchTypeI
  dsimp only
  rw [accepted]

/-- R180: once target and direction are set, the motion starts with the byte's h and rate. -/
theorem startMotion_typeIAccepted {s : State} {b : Byte} {h : Bool} {r : BitVec 2} (flag : b.getLsbD 3 = h)
    (rate : rateField b = r) (target : Nat) (dir : Direction) :
    State.startMotion { typeIAccepted s b with seekTarget := target, stepVector := dir } =
      typeIStarted s b h r target dir := by
  rw [startMotion_eq, typeIStarted, typeIAccepted, flag]
  simp only [State.stepDelay, rate, empty_put_some]

/-- R183 to R185: the Step family's part, its clamp written out. -/
theorem stepPart_eq (d : Direction) (s : State) : stepPart d s =
    { s with
      seekTarget := min (if d = .inward then s.physicalTrack + 1 else s.physicalTrack - 1) s.config.maxTrack
      stepVector := d } := by
  cases d with
  | inward => rw [stepPart, Direction.delta, clampTrack_inward, if_pos rfl]
  | outward => rw [stepPart, Direction.delta, clampTrack_outward, if_neg (by decide)]

/-- Settles O9: each command is accepted and dispatched, its own part sets target and direction as R181 to R185 say, and
`startMotion_typeIAccepted` starts the head. -/
theorem typeICommandsStartTheHead : Obligations.TypeICommandsStartTheHead := by
  intro s free
  have started (i : Instr) (part : State → State) {h : Bool} {r : BitVec 2} {target : Nat} {dir : Direction}
      (flag : h = (encode i).getLsbD 3) (rate : r = rateField (encode i))
      (effect : body i (s.accept i) = (s.accept i).dispatchTypeI part)
      (own : part (typeIAccepted s (encode i)) =
        { typeIAccepted s (encode i) with seekTarget := target, stepVector := dir }) :
      exec i s = .next (typeIStarted s (encode i) h r target dir) := by
    rw [exec_of_not_busy i free, effect, dispatchTypeI_accept, own, startMotion_typeIAccepted flag.symm rate.symm]
  refine ⟨fun h v r => ?restore, fun h v r => ?seek, fun u h v r => ?step, fun u h v r => ?stepIn,
    fun u h v r => ?stepOut⟩
  case restore =>
    obtain ⟨flag, -, rate⟩ := fieldsAt_encode (.restore h v r)
    exact started _ restorePart flag rate rfl rfl
  case seek =>
    obtain ⟨flag, -, rate⟩ := fieldsAt_encode (.seek h v r)
    exact started _ seekPart flag rate rfl rfl
  case step =>
    obtain ⟨-, flag, -, rate⟩ := fieldsAt_encode (.step u h v r)
    exact started _ (stepPart s.stepVector) flag rate rfl (stepPart_eq _ _)
  case stepIn =>
    obtain ⟨-, flag, -, rate⟩ := fieldsAt_encode (.stepIn u h v r)
    exact started _ (stepPart .inward) flag rate rfl (stepPart_eq _ _)
  case stepOut =>
    obtain ⟨-, flag, -, rate⟩ := fieldsAt_encode (.stepOut u h v r)
    exact started _ (stepPart .outward) flag rate rfl (stepPart_eq _ _)

end Sys2Proof.Proofs
end

section
/-! PROOFS. The dispatch of the Type II and III commands (spec/41_dispatch.md R151, R153, R369). -/

namespace Sys2Proof.Proofs

open Sys2Proof.Machine Sys2Proof.Laws

/-- R151, R103: a Type II/III command with byte `b`, accepted and dispatched, before its checks. -/
def transferAccepted (s : State) (b : Byte) (tag : CmdType) : State :=
  { s with
    command := b
    irq := false
    drq := false
    xferDir := .none
    status := if s.ready = true then 0x01 else 0x81
    cmdType := tag
    statusView := .typeIIandIII
    viewWrite := tag.isWrite
    slots := Slots.empty }

theorem dispatchTransfer_accept (s : State) (i : Instr) (tag : CmdType) :
    (s.accept i).dispatchTransfer tag = (transferAccepted s (encode i) tag).prologue := by
  rw [State.dispatchTransfer, dispatch_transfer_eq]; rfl

/-- R161 at the dispatch: one error bit over the dispatched STATUS. -/
theorem abort_transferAccepted {s : State} {b v : Byte} {tag : CmdType} {e : ErrorBit}
    (status : setBit (if s.ready = true then 0x01 else 0x81) e.index true = v) :
    (transferAccepted s b tag).abort [e] = transferAborted s b v tag.isWrite := by
  rw [abort_eq, ← status]
  rfl

/-- R153, first check. -/
theorem prologue_not_ready {s : State} {b : Byte} {tag : CmdType} (notReady : s.ready = false) :
    (transferAccepted s b tag).prologue = transferAborted s b 0x81 tag.isWrite := by
  rw [State.prologue, if_pos (show (transferAccepted s b tag).ready = false from notReady)]
  exact abort_transferAccepted (by rw [notReady]; rfl)

/-- R153: the side compare of a Type II command with C set and a side S. -/
def sideDiffers (s : State) (b : Byte) (tag : CmdType) : Bool :=
  tag.isTypeII && b.getLsbD 1 && (b.getLsbD 3 != s.side)

theorem sideDiffers_of_agrees {s : State} {b : Byte} {sd c : Bool} (tag : CmdType) (hc : c = b.getLsbD 1)
    (hs : sd = b.getLsbD 3) (agrees : c = true → sd = s.side) : sideDiffers s b tag = false := by
  rw [sideDiffers, ← hc, ← hs]
  cases c with
  | false => rw [Bool.and_false, Bool.false_and]
  | true => rw [agrees rfl, bne_self_eq_false, Bool.and_false]

/-- R153 for a ready drive: the other checks in their order. -/
theorem prologue_ready {s : State} {b : Byte} {tag : CmdType} (ready : s.ready = true) :
    (transferAccepted s b tag).prologue =
      if (tag.isWrite && s.unit.writeProtected) = true then transferAborted s b 0x21 tag.isWrite
      else if sideDiffers s b tag = true then
        transferAborted s b 0x11 tag.isWrite
      else transferStarted s b tag tag.isWrite := by
  have notReady : ¬ (transferAccepted s b tag).ready = false := by
    rw [show (transferAccepted s b tag).ready = true from ready]
    decide
  have waits : (transferAccepted s b tag).awaitSearch = transferStarted s b tag tag.isWrite := by
    rw [awaitSearch_eq, transferAccepted, transferStarted, ready]
    rfl
  rw [State.prologue, if_neg notReady, waits, abort_transferAccepted (v := 0x21) (by rw [ready]; rfl),
    abort_transferAccepted (v := 0x11) (by rw [ready]; rfl)]
  rfl

/-- The accepted Type II/III command with the tag of its row runs its checks. -/
theorem exec_transfer {s : State} {i : Instr} {tag : CmdType} (free : s.busy = false)
    (effect : body i (s.accept i) = (s.accept i).dispatchTransfer tag) :
    exec i s = .next (transferAccepted s (encode i) tag).prologue := by
  rw [exec_of_not_busy i free, effect, dispatchTransfer_accept]

/-- R153 passed: no write to a protected medium, no compare with another side. -/
theorem exec_transfer_starts {s : State} {i : Instr} {tag : CmdType} (free : s.busy = false) (ready : s.ready = true)
    (effect : body i (s.accept i) = (s.accept i).dispatchTransfer tag)
    (writable : (tag.isWrite && s.unit.writeProtected) = false)
    (agrees : sideDiffers s (encode i) tag = false) :
    exec i s = .next (transferStarted s (encode i) tag tag.isWrite) := by
  rw [exec_transfer free effect, prologue_ready ready, writable, agrees]
  rfl

/-- Settles O15: no check of `prologue_ready` applies to the seven commands as the statement restricts them. -/
theorem transferCommandsWaitForTheirSearch : Obligations.TransferCommandsWaitForTheirSearch := by
  intro s free ready
  have started {i : Instr} (tag : CmdType) := exec_transfer_starts (i := i) (tag := tag) free ready
  refine ⟨fun sd e c x0 side => ?_, fun sd e c x0 side => ?_, fun x3 e x1 x0 => ?_, fun x3 e x1 x0 => ?_,
    fun writable => ⟨fun sd e c a0 side => ?_, fun sd e c a0 side => ?_, fun x3 e x1 x0 => ?_⟩⟩
  · obtain ⟨hs, -, hc, -⟩ := fieldsAt_encode (.readSector sd e c x0)
    exact started .readSector rfl rfl (sideDiffers_of_agrees _ hc hs side)
  · obtain ⟨hs, -, hc, -⟩ := fieldsAt_encode (.readMultiple sd e c x0)
    exact started .readMulti rfl rfl (sideDiffers_of_agrees _ hc hs side)
  · exact started .readAddress rfl rfl rfl
  · exact started .readTrack rfl rfl rfl
  · obtain ⟨hs, -, hc, -⟩ := fieldsAt_encode (.writeSector sd e c a0)
    exact started .writeSector rfl writable (sideDiffers_of_agrees _ hc hs side)
  · obtain ⟨hs, -, hc, -⟩ := fieldsAt_encode (.writeMultiple sd e c a0)
    exact started .writeMulti rfl writable (sideDiffers_of_agrees _ hc hs side)
  · exact started .writeTrack rfl writable rfl

/-- Settles O16: each clause is one branch of `prologue_not_ready` or `prologue_ready`. -/
theorem transferDispatchChecksInOrder : Obligations.TransferDispatchChecksInOrder := by
  intro s free
  have notReady (i : Instr) (tag : CmdType) (h : s.ready = false)
      (effect : body i (s.accept i) = (s.accept i).dispatchTransfer tag) :
      exec i s = .next (transferAborted s (encode i) 0x81 tag.isWrite) := by
    rw [exec_transfer free effect, prologue_not_ready h]
  have isProtected (i : Instr) (tag : CmdType) (h : s.ready = true) (hp : s.unit.writeProtected = true)
      (hw : tag.isWrite = true) (effect : body i (s.accept i) = (s.accept i).dispatchTransfer tag) :
      exec i s = .next (transferAborted s (encode i) 0x21 tag.isWrite) := by
    rw [exec_transfer free effect, prologue_ready h, hw, hp]
    rfl
  have otherSide {sd : Bool} (i : Instr) (tag : CmdType) (h : s.ready = true) (hs : sd ≠ s.side)
      (writable : (tag.isWrite && s.unit.writeProtected) = false) (typeII : tag.isTypeII = true)
      (S : sd = (encode i).getLsbD 3) (C : true = (encode i).getLsbD 1)
      (effect : body i (s.accept i) = (s.accept i).dispatchTransfer tag) :
      exec i s = .next (transferAborted s (encode i) 0x11 tag.isWrite) := by
    have differs : sideDiffers s (encode i) tag = true := by
      rw [sideDiffers, typeII, ← C, ← S, bne_iff_ne.mpr hs]
      rfl
    rw [exec_transfer free effect, prologue_ready h, writable, differs]
    rfl
  refine ⟨fun h => ⟨?_, ?_, ?_, ?_, ?_, ?_, ?_⟩, fun h hp => ⟨?_, ?_, ?_⟩, fun h => ⟨?_, ?_, ?_, ?_⟩⟩
  · exact fun _ _ _ _ => notReady _ .readSector h rfl
  · exact fun _ _ _ _ => notReady _ .readMulti h rfl
  · exact fun _ _ _ _ => notReady _ .writeSector h rfl
  · exact fun _ _ _ _ => notReady _ .writeMulti h rfl
  · exact fun _ _ _ _ => notReady _ .readAddress h rfl
  · exact fun _ _ _ _ => notReady _ .readTrack h rfl
  · exact fun _ _ _ _ => notReady _ .writeTrack h rfl
  · exact fun _ _ _ _ => isProtected _ .writeSector h hp rfl rfl
  · exact fun _ _ _ _ => isProtected _ .writeMulti h hp rfl rfl
  · exact fun _ _ _ _ => isProtected _ .writeTrack h hp rfl rfl
  · intro sd e x0 hs
    obtain ⟨S, -, C, -⟩ := fieldsAt_encode (.readSector sd e true x0)
    exact otherSide _ .readSector h hs rfl rfl S C rfl
  · intro sd e x0 hs
    obtain ⟨S, -, C, -⟩ := fieldsAt_encode (.readMultiple sd e true x0)
    exact otherSide _ .readMulti h hs rfl rfl S C rfl
  · intro sd e a0 hs hp
    obtain ⟨S, -, C, -⟩ := fieldsAt_encode (.writeSector sd e true a0)
    exact otherSide _ .writeSector h hs hp rfl S C rfl
  · intro sd e a0 hs hp
    obtain ⟨S, -, C, -⟩ := fieldsAt_encode (.writeMultiple sd e true a0)
    exact otherSide _ .writeMulti h hs hp rfl S C rfl

end Sys2Proof.Proofs
end

section
/-! PROOFS. The invariant (Sys2Proof/Safety.lean) in the parts that the operations keep, and one lemma for each way a
handler, a command or a port access can leave the block. -/

namespace Sys2Proof.Proofs

open Sys2Proof.Machine Sys2Proof.Laws

/-! ### The parts of the invariant -/

/-- The part of the invariant that no end and no start of a command looks at: parameters, drive, media, ranges. -/
structure Standing (s : State) : Prop where
  config : s.config.wf = true
  drive : s.driveSelect < s.media.length
  media : ∀ u ∈ s.media, u.wf = true
  head : s.physicalTrack ≤ s.config.maxTrack
  target : s.seekTarget ≤ s.config.maxTrack
  index : s.indexCtr < s.config.indexPeriod

/-- The part that binds BUSY, COMMAND and the view to the command in force. -/
structure Owned (s : State) : Prop where
  busy : s.busy = s.cmdType.isBusy
  tag : s.cmdType ≠ .idle → s.cmdType = tagOf (decode s.command)
  view : s.cmdType.isBusy = true → s.statusView = if s.cmdType = .seek then .typeI else .typeIIandIII
  viewWrite : s.cmdType.isTransfer = true → s.viewWrite = s.cmdType.isWrite

/-- What a handler starts from: the command's state without a session, and nothing pending. -/
structure Serving (s : State) : Prop where
  standing : Standing s
  owned : Owned s
  drq : s.drq = false
  noSession : s.xferDir = .none
  nothingPending : s.slots = Slots.empty

theorem Standing.of_inv {s : State} (h : s.Inv) : Standing s :=
  ⟨h.config, h.drive, h.media, h.head, h.target, h.index⟩

theorem Owned.of_inv {s : State} (h : s.Inv) : Owned s := ⟨h.busy, h.tag, h.view, h.viewWrite⟩

/-- The selected unit may be replaced by any unit within the contract. -/
theorem Standing.setUnit {s : State} (h : Standing s) {u : MediaUnit} (hu : u.wf = true) : Standing (s.setUnit u) where
  config := h.config
  drive := by
    show s.driveSelect < (s.media.set s.driveSelect u).length
    rw [List.length_set]
    exact h.drive
  media := setUnit_media_wf h.media hu
  head := h.head
  target := h.target
  index := h.index

theorem Standing.unit_wf {s : State} (h : Standing s) : s.unit.wf = true := Laws.unit_wf h.media h.drive

/-- A command stays between its events when only the selected unit is replaced and values are drawn. -/
theorem Serving.setUnit {s : State} (h : Serving s) {u : MediaUnit} (hu : u.wf = true) (draws : Nat) :
    Serving { s.setUnit u with draws := draws } :=
  have stored := h.standing.setUnit hu
  ⟨⟨stored.config, stored.drive, stored.media, stored.head, stored.target, stored.index⟩,
    ⟨h.owned.busy, h.owned.tag, h.owned.view, h.owned.viewWrite⟩, h.drq, h.noSession, h.nothingPending⟩

theorem Serving.memWrite {s : State} (h : Serving s) (off : Nat) (bytes : List Byte) :
    Serving (s.memWrite off bytes).1 :=
  h.setUnit (writeBytes_wf h.standing.unit_wf) _

theorem Serving.recordMetadata {s : State} (h : Serving s) : Serving s.recordMetadata :=
  h.setUnit (markDeleted_wf (writeStoredCrc_wf h.standing.unit_wf)) s.draws

theorem Serving.formatTrack {s : State} (h : Serving s) (t : Nat) (side : Bool) : Serving (s.formatTrack t side) :=
  h.setUnit (makeTrack_wf h.standing.unit_wf) _

/-! ### Slots with one event -/

theorem stepSeek_only {k : EventKind} {x : Slot} (h : (Slots.only k x).stepSeek ≠ none) : k = .stepSeek := by
  cases k with
  | stepSeek => rfl
  | _ => exact absurd rfl h

theorem seekEnd_only {k : EventKind} {x : Slot} (h : (Slots.only k x).seekEnd ≠ none) : k = .seekEnd := by
  cases k with
  | seekEnd => rfl
  | _ => exact absurd rfl h

/-! ### The states a step leaves -/

theorem not_streams_of_mayBeQuiet {p : Phase} (h : p.mayBeQuiet = true) : p.streams = false := by
  revert h
  cases p <;> decide

/-- Nothing pending, no session: an ended command, or a Type IV cycle without its timer. -/
theorem inv_of_quiet {s : State} (serving : Serving s) (phase : s.cmdType.fits s.phase = true)
    (quiet : s.phase.mayBeQuiet = true) : s.Inv where
  config := serving.standing.config
  drive := serving.standing.drive
  media := serving.standing.media
  busy := serving.owned.busy
  phase := phase
  tag := serving.owned.tag
  view := serving.owned.view
  viewWrite := serving.owned.viewWrite
  head := serving.standing.head
  target := serving.standing.target
  index := serving.standing.index
  drq := by simp [serving.drq, serving.noSession]
  streams := by simp [not_streams_of_mayBeQuiet quiet, serving.noSession]
  session := by unfold State.SessionOk; rw [serving.noSession]; trivial
  crc := fun h => absurd serving.noSession h
  pending := .inl ⟨serving.nothingPending, quiet⟩
  stepping := fun h => by rw [serving.nothingPending] at h; exact absurd rfl h
  arriving := fun h => by rw [serving.nothingPending] at h; exact absurd rfl h

/-- A command between two events, without a session: one event pending, of the kind its phase waits for. -/
theorem inv_of_scheduled {s : State} (serving : Serving s) (phase : s.cmdType.fits s.phase = true)
    (notStreaming : s.phase.streams = false) {k : EventKind} (d : Nat) (awaited : s.phase.awaits k = true)
    (stepping : k = .stepSeek → s.physicalTrack ≠ s.seekTarget)
    (arriving : k = .seekEnd → s.physicalTrack = s.seekTarget) : (s.schedule k d).Inv where
  config := serving.standing.config
  drive := serving.standing.drive
  media := serving.standing.media
  busy := serving.owned.busy
  phase := phase
  tag := serving.owned.tag
  view := serving.owned.view
  viewWrite := serving.owned.viewWrite
  head := serving.standing.head
  target := serving.standing.target
  index := serving.standing.index
  drq := by simp [serving.drq, serving.noSession]
  streams := by simp [notStreaming, serving.noSession]
  session := by unfold State.SessionOk; rw [schedule_xferDir, serving.noSession]; trivial
  crc := fun h => absurd serving.noSession h
  pending := .inr ⟨k, ⟨s.now + d, s.cmdType⟩, by rw [schedule_slots, serving.nothingPending]; rfl, awaited, rfl,
    Nat.le_add_right _ _⟩
  stepping := fun h => by
    rw [schedule_slots, serving.nothingPending] at h
    exact stepping (stepSeek_only h)
  arriving := fun h => by
    rw [schedule_slots, serving.nothingPending] at h
    exact arriving (seekEnd_only h)

/-- A streaming phase waits for the watchdog. -/
theorem awaits_dataLoss_of_streams {p : Phase} (h : p.streams = true) : p.awaits .dataLoss = true := by
  revert h
  cases p <;> decide

/-- An open session: DRQ, a streaming phase, the watchdog pending. -/
theorem inv_of_session {s : State} {x : Slot} (standing : Standing s) (owned : Owned s)
    (phase : s.cmdType.fits s.phase = true) (drq : s.drq = true) (isOpen : s.xferDir ≠ .none)
    (streams : s.phase.streams = true) (session : s.SessionOk) (crc : s.CrcOk)
    (armed : s.slots = Slots.only .dataLoss x) (own : x.owner = s.cmdType) (inTime : s.now ≤ x.fireTime) : s.Inv where
  config := standing.config
  drive := standing.drive
  media := standing.media
  busy := owned.busy
  phase := phase
  tag := owned.tag
  view := owned.view
  viewWrite := owned.viewWrite
  head := standing.head
  target := standing.target
  index := standing.index
  drq := by simp [drq, isOpen]
  streams := by simp [streams, isOpen]
  session := session
  crc := crc
  pending := .inr ⟨.dataLoss, x, armed, awaits_dataLoss_of_streams streams, own, inTime⟩
  stepping := fun h => by
    rw [armed] at h
    exact absurd rfl h
  arriving := fun h => by
    rw [armed] at h
    exact absurd rfl h

/-! ### How a command ends (R160, R161) -/

theorem complete_eq_ended (s : State) : s.complete = ended s s.status := rfl

theorem abort_eq_ended (s : State) (e : ErrorBit) : s.abort [e] = ended s (setBit s.status e.index true) := rfl

theorem inv_ended {s : State} (h : Standing s) (v : Byte) : (ended s v).Inv := by
  have notBusy : (ended s v).busy = false := by
    show (setBit v bitBusy false).getLsbD bitBusy = false
    rw [getLsbD_setBit _ _ _ _ (by decide), if_pos rfl]
  exact inv_of_quiet ⟨⟨h.config, h.drive, h.media, h.head, h.target, h.index⟩,
    ⟨notBusy, fun h => absurd rfl h, nofun, nofun⟩, rfl, rfl, rfl⟩ rfl rfl

theorem inv_complete {s : State} (h : Standing s) : s.complete.Inv := inv_ended h _

theorem inv_abort {s : State} (h : Standing s) (e : ErrorBit) : (s.abort [e]).Inv := inv_ended h _

/-! ### The ends of record (R216, R217, R243, R246, R249) -/

/-- A multi-sector command that goes on waits for MULTI_1 in phase SEARCHING. -/
theorem inv_goesOn {s : State} (h : Serving s) (multi : s.cmdType = .readMulti ∨ s.cmdType = .writeMulti) (d : Nat) :
    (State.schedule { s with phase := .searching } .multi1 d).Inv := by
  have phase : s.cmdType.fits .searching = true := by rcases multi with e | e <;> rw [e] <;> rfl
  exact inv_of_scheduled (s := { s with phase := .searching })
    ⟨⟨h.standing.config, h.standing.drive, h.standing.media, h.standing.head, h.standing.target, h.standing.index⟩,
      ⟨h.owned.busy, h.owned.tag, h.owned.view, h.owned.viewWrite⟩, h.drq, h.noSession, h.nothingPending⟩
    phase rfl d rfl nofun nofun

/-- What the end of a record starts from: the session closed, at most the watchdog pending. -/
structure Closing (s : State) : Prop where
  standing : Standing s
  owned : Owned s
  drq : s.drq = false
  noSession : s.xferDir = .none
  onlyWatchdog : s.slots.put .dataLoss none = Slots.empty

theorem Closing.cancelled {s : State} (h : Closing s) : Serving (s.cancel .dataLoss) where
  standing := ⟨h.standing.config, h.standing.drive, h.standing.media, h.standing.head, h.standing.target,
    h.standing.index⟩
  owned := ⟨h.owned.busy, h.owned.tag, h.owned.view, h.owned.viewWrite⟩
  drq := h.drq
  noSession := h.noSession
  nothingPending := h.onlyWatchdog

theorem inv_endReadRecord {s : State} (h : Closing s) : (endReadRecord s).Inv := by
  rcases endReadRecord_cases s with ⟨bad, -⟩ | ⟨-, good⟩
  · rw [bad]
    exact inv_abort h.cancelled.standing _
  · rw [good]
    split
    · next multi => exact inv_goesOn h.cancelled (.inl multi) _
    · exact inv_complete h.cancelled.standing

theorem inv_endWriteRecord {s : State} (h : Closing s) : (endWriteRecord s).Inv := by
  have written := h.cancelled.memWrite s.recOffset s.xferBuf
  rcases endWriteRecord_cases s with ⟨-, failed⟩ | ⟨-, committed⟩
  · rw [failed]
    exact inv_abort written.standing _
  · rw [committed]
    dsimp only
    split
    · next multi =>
      refine inv_goesOn written.recordMetadata (.inr ?_) _
      rw [recordMetadata_eq, memWrite_fst]
      exact multi
    · exact inv_complete written.recordMetadata.standing

theorem inv_endWriteTrack {s : State} (h : Closing s) : (endWriteTrack s).Inv := by
  have written := (h.cancelled.formatTrack s.recTrack s.recSide).memWrite s.recOffset s.xferBuf
  unfold endWriteTrack
  dsimp only
  split
  · exact inv_abort written.standing _
  · exact inv_complete written.standing

theorem inv_endOfRecord {s : State} (h : Closing s) (transfer : s.cmdType.isTransfer = true) : (endOfRecord s).Inv := by
  unfold endOfRecord
  cases tag : s.cmdType with
  | readSector => exact inv_endReadRecord h
  | readMulti => exact inv_endReadRecord h
  | writeSector => exact inv_endWriteRecord h
  | writeMulti => exact inv_endWriteRecord h
  | readAddress => exact inv_complete h.cancelled.standing
  | readTrack => exact inv_complete h.cancelled.standing
  | writeTrack => exact inv_endWriteTrack h
  | _ => rw [tag] at transfer; cases transfer

/-! ### The openings of a session (R291, R292) -/

theorem inv_openRead {s : State} (h : Serving s) (phase : s.cmdType.fits s.phase = true)
    (streams : s.phase.streams = true) (read : s.cmdType.isRead = true) (t : Nat) (side : Bool) (k : Byte) (off : Nat)
    (bytes : List Byte) (crcOn : Bool) : (openRead t side k off bytes crcOn s).Inv := by
  obtain ⟨⟨config, drive, media, head, target, index⟩, ⟨busy, tag, view, viewWrite⟩, drq, noSession, empty⟩ := h
  cases bytes with
  | nil =>
    rw [openRead_nil]
    refine inv_endOfRecord ⟨⟨config, drive, media, head, target, index⟩, ⟨busy, tag, view, viewWrite⟩, drq, rfl, ?_⟩ ?_
    · rw [empty, empty_put_none]
    · rw [CmdType.isTransfer, read, Bool.true_or]
  | cons b bs =>
    rw [openRead_cons]
    exact inv_of_session (x := ⟨s.now + s.config.delays.dataLoss, s.cmdType⟩)
      ⟨config, drive, media, head, target, index⟩ ⟨busy, tag, view, viewWrite⟩ phase rfl nofun streams
      ⟨read, Nat.zero_lt_succ _, rfl, rfl⟩ (fun _ => (ite_self _).symm) (by rw [empty]; rfl) rfl (Nat.le_add_right _ _)

theorem inv_openWrite {s : State} (h : Serving s) (phase : s.cmdType.fits s.phase = true)
    (streams : s.phase.streams = true) (write : s.cmdType.isWrite = true) (t : Nat) (side : Bool) (k : Byte)
    (off len : Nat) (crcOn : Bool) : (openWrite t side k off len crcOn s).Inv := by
  obtain ⟨⟨config, drive, media, head, target, index⟩, ⟨busy, tag, view, viewWrite⟩, drq, noSession, empty⟩ := h
  rcases Nat.eq_zero_or_pos len with zero | positive
  · rw [zero, openWrite_zero]
    refine inv_endOfRecord ⟨⟨config, drive, media, head, target, index⟩, ⟨busy, tag, view, viewWrite⟩, drq, rfl, ?_⟩ ?_
    · rw [empty, empty_put_none]
    · rw [CmdType.isTransfer, write, Bool.or_true]
  · rw [openWrite_pos (h := positive)]
    exact inv_of_session (x := ⟨s.now + s.config.delays.dataLoss, s.cmdType⟩)
      ⟨config, drive, media, head, target, index⟩ ⟨busy, tag, view, viewWrite⟩ phase rfl nofun streams
      ⟨write, positive, rfl⟩ (fun _ => (ite_self _).symm) (by rw [empty]; rfl) rfl (Nat.le_add_right _ _)

end Sys2Proof.Proofs
end

section
/-! PROOFS. The event handlers keep the invariant (spec/48_scheduler.md R335 to R337). -/

namespace Sys2Proof.Proofs

open Sys2Proof.Machine Sys2Proof.Laws

/-! ### Which phase and command an event belongs to (R162, R330) -/

theorem seeking_of_awaits {p : Phase} {k : EventKind} (hk : k = .stepSeek ∨ k = .seekEnd) (h : p.awaits k = true) :
    p = .seeking := by
  revert h
  rcases hk with rfl | rfl <;> cases p <;> decide

theorem settling_of_awaits {p : Phase} (h : p.awaits .search = true) : p = .settling := by
  revert h
  cases p <;> decide

theorem searching_of_awaits {p : Phase} {k : EventKind} (hk : k = .multi1 ∨ k = .multi2) (h : p.awaits k = true) :
    p = .searching := by
  revert h
  rcases hk with rfl | rfl <;> cases p <;> decide

theorem forceInterrupt_of_awaits {p : Phase} (h : p.awaits .fiRearm = true) : p = .forceInterrupt := by
  revert h
  cases p <;> decide

theorem seek_of_fits {c : CmdType} (h : c.fits .seeking = true) : c = .seek := by
  revert h
  cases c <;> decide

theorem isTransfer_of_fits_settling {c : CmdType} (h : c.fits .settling = true) : c.isTransfer = true := by
  revert h
  cases c <;> decide

theorem multi_of_fits_searching {c : CmdType} (h : c.fits .searching = true) : c = .readMulti ∨ c = .writeMulti := by
  revert h
  cases c <;> decide

theorem forceInterrupt_of_fits {c : CmdType} (h : c.fits .forceInterrupt = true) : c = .forceInterrupt := by
  revert h
  cases c <;> decide

/-! ### Type I (R186, R187) -/

theorem inv_startMotion {s : State} (h : Serving s) (seek : s.cmdType = .seek) (seeking : s.phase = .seeking) :
    s.startMotion.Inv := by
  have phase : s.cmdType.fits s.phase = true := by rw [seek, seeking]; rfl
  have notStreaming : s.phase.streams = false := by rw [seeking]; rfl
  rcases startMotion_cases s with ⟨off, e⟩ | ⟨on, e⟩ <;> rw [e]
  · exact inv_of_scheduled h phase notStreaming _ (by rw [seeking]; rfl) (fun _ => Ne.symm off) nofun
  · exact inv_of_scheduled h phase notStreaming _ (by rw [seeking]; rfl) nofun (fun _ => on.symm)

theorem inv_onStepSeek {s : State} (h : Serving s) (seek : s.cmdType = .seek) (seeking : s.phase = .seeking)
    (off : s.physicalTrack ≠ s.seekTarget) : (onStepSeek s).Inv := by
  obtain ⟨⟨config, drive, media, head, target, index⟩, ⟨busy, tag, view, viewWrite⟩, drq, noSession, empty⟩ := h
  rw [onStepSeek, moveOneTrack_eq off]
  refine inv_startMotion ⟨⟨config, drive, media, ?_, target, index⟩, ⟨busy, tag, view, viewWrite⟩, drq, noSession, empty⟩
    seek seeking
  dsimp only
  split <;> omega

theorem inv_onSeekEnd {s : State} (h : Standing s) : (onSeekEnd s).Inv := by
  have arrives : onSeekEnd s = ended { arrived s with rotationCursor := arrivalCursor s }
      (if (s.flagV && verifyFails s (arrivalTrack s)) = true then
        setBit (arrivedStatus s.status (decide (s.command.toNat < 0x10)) (s.physicalTrack == 0)) bitSeekOrRecord true
      else arrivedStatus s.status (decide (s.command.toNat < 0x10)) (s.physicalTrack == 0)) := onSeekEnd_eq s
  rw [arrives]
  refine inv_ended (s := { arrived s with rotationCursor := arrivalCursor s })
    ⟨h.config, h.drive, h.media, h.head, h.target, ?_⟩ _
  show (if s.command.toNat < 0x10 then 0 else s.indexCtr) < s.config.indexPeriod
  have := h.index
  split <;> omega

/-! ### The searches (R215, R219, R242, R245, R248) -/

/-- The command's state with a drawn number, another cursor and another phase is still between its events. -/
theorem Serving.moved {s : State} (h : Serving s) (cursor draws : Nat) (phase : Phase) :
    Serving { s with rotationCursor := cursor, draws := draws, phase := phase } :=
  ⟨⟨h.standing.config, h.standing.drive, h.standing.media, h.standing.head, h.standing.target, h.standing.index⟩,
    ⟨h.owned.busy, h.owned.tag, h.owned.view, h.owned.viewWrite⟩, h.drq, h.noSession, h.nothingPending⟩

theorem transferring_of_isTypeII {c : CmdType} (h : c.isTypeII = true) : c.fits .transferring = true := by
  revert h
  cases c <;> decide

theorem isWrite_of_isTypeII {c : CmdType} (h : c.isTypeII = true) (notRead : ¬ c.isRead = true) : c.isWrite = true := by
  revert h notRead
  cases c <;> decide

/-- R215 for a read command: the session opens on the record's bytes. -/
theorem openSector_read {s : State} (read : s.cmdType.isRead = true) : openSector s =
    openRead s.physicalTrack s.side s.sector (s.unit.locate s.physicalTrack s.side s.sector.toNat)
      (s.unit.readBytes s.draws (s.unit.locate s.physicalTrack s.side s.sector.toNat)
        (s.unit.sectorSize s.physicalTrack)) true
      { s with phase := .transferring, draws := s.draws + 1 } :=
  if_pos read

/-- R215 for a write command. -/
theorem openSector_write {s : State} (write : s.cmdType.isRead = false) : openSector s =
    openWrite s.physicalTrack s.side s.sector (s.unit.locate s.physicalTrack s.side s.sector.toNat)
      (s.unit.sectorSize s.physicalTrack) true { s with phase := .transferring } :=
  if_neg (by rw [write]; decide)

theorem inv_openSector {s : State} (h : Serving s) (typeII : s.cmdType.isTypeII = true) : (openSector s).Inv := by
  have phase := transferring_of_isTypeII typeII
  cases read : s.cmdType.isRead with
  | true =>
    rw [openSector_read read]
    exact inv_openRead (h.moved s.rotationCursor (s.draws + 1) .transferring) phase rfl read _ _ _ _ _ _
  | false =>
    rw [openSector_write read]
    exact inv_openWrite (h.moved s.rotationCursor s.draws .transferring) phase rfl
      (isWrite_of_isTypeII typeII (by rw [read]; decide)) _ _ _ _ _ _

theorem inv_typeIISearch {s : State} (h : Serving s) (typeII : s.cmdType.isTypeII = true) : (typeIISearch s).Inv := by
  rcases typeIISearch_cases s with ⟨-, e⟩ | ⟨g, p, id, -, -, e⟩ <;> rw [e]
  · exact inv_abort h.standing _
  · exact inv_openSector (h.moved _ s.draws s.phase) typeII

theorem inv_readAddressSearch {s : State} (h : Serving s) (tag : s.cmdType = .readAddress) :
    (readAddressSearch s).Inv := by
  cases hg : s.unit.geometry s.physicalTrack with
  | none =>
    rw [readAddressSearch_unreadable hg]
    exact inv_abort h.standing _
  | some g =>
    cases hid : s.unit.sectorId s.physicalTrack s.side (s.rotationCursor % g.sectors) with
    | none =>
      rw [readAddressSearch_no_id hg hid]
      exact inv_abort (h.moved _ s.draws s.phase).standing _
    | some id =>
      rw [readAddressSearch_id hg hid]
      refine inv_openRead (h.moved _ s.draws _) ?_ rfl ?_ _ _ _ _ _ _
      · show s.cmdType.fits .transferring = true
        rw [tag]; rfl
      · show s.cmdType.isRead = true
        rw [tag]; rfl

theorem inv_readTrackSearch {s : State} (h : Serving s) (tag : s.cmdType = .readTrack) : (readTrackSearch s).Inv := by
  unfold readTrackSearch
  split
  · exact inv_abort h.standing _
  · refine inv_openRead (h.moved _ _ _) ?_ rfl ?_ _ _ _ _ _ _
    · show s.cmdType.fits .readingTrack = true
      rw [tag]; rfl
    · show s.cmdType.isRead = true
      rw [tag]; rfl

theorem inv_writeTrackSearch {s : State} (h : Serving s) (tag : s.cmdType = .writeTrack) :
    (writeTrackSearch s).Inv := by
  unfold writeTrackSearch
  split
  · exact inv_abort h.standing _
  · refine inv_openWrite (h.moved s.rotationCursor s.draws _) ?_ rfl ?_ _ _ _ _ _ _
    · show s.cmdType.fits .writingTrack = true
      rw [tag]; rfl
    · show s.cmdType.isWrite = true
      rw [tag]; rfl

theorem inv_onSearch {s : State} (h : Serving s) (transfer : s.cmdType.isTransfer = true) : (onSearch s).Inv := by
  unfold onSearch
  cases tag : s.cmdType with
  | readSector => exact inv_typeIISearch h (by rw [tag]; rfl)
  | readMulti => exact inv_typeIISearch h (by rw [tag]; rfl)
  | writeSector => exact inv_typeIISearch h (by rw [tag]; rfl)
  | writeMulti => exact inv_typeIISearch h (by rw [tag]; rfl)
  | readAddress => exact inv_readAddressSearch h tag
  | readTrack => exact inv_readTrackSearch h tag
  | writeTrack => exact inv_writeTrackSearch h tag
  | _ => rw [tag] at transfer; cases transfer

/-! ### The continuation and the re-arm timer (R218, R274) -/

theorem inv_onMulti1 {s : State} (h : Serving s) (multi : s.cmdType = .readMulti ∨ s.cmdType = .writeMulti)
    (searching : s.phase = .searching) : (onMulti1 s).Inv := by
  have counted : Serving { s with sector := s.sector + 1, draws := s.draws + 1 } :=
    ⟨⟨h.standing.config, h.standing.drive, h.standing.media, h.standing.head, h.standing.target, h.standing.index⟩,
      ⟨h.owned.busy, h.owned.tag, h.owned.view, h.owned.viewWrite⟩, h.drq, h.noSession, h.nothingPending⟩
  have phase : s.cmdType.fits s.phase = true := by rcases multi with e | e <;> rw [e, searching] <;> rfl
  unfold onMulti1
  dsimp only
  split
  · exact inv_complete counted.standing
  · exact inv_of_scheduled counted phase (by rw [searching]; rfl) _ (by rw [searching]; rfl) nofun nofun

theorem inv_onFiRearm {s : State} (h : Serving s) (tag : s.cmdType = .forceInterrupt)
    (cycle : s.phase = .forceInterrupt) : (onFiRearm s).Inv := by
  have phase : s.cmdType.fits s.phase = true := by rw [tag, cycle]; rfl
  obtain ⟨⟨config, drive, media, head, target, index⟩, ⟨busy, tag, view, viewWrite⟩, drq, noSession, empty⟩ := h
  unfold onFiRearm
  split
  · exact inv_of_quiet ⟨⟨config, drive, media, head, target, index⟩, ⟨busy, tag, view, viewWrite⟩, drq, noSession, empty⟩
      phase (by rw [cycle]; rfl)
  · exact inv_of_scheduled (s := { s with fiReadyRef := s.ready })
      ⟨⟨config, drive, media, head, target, index⟩, ⟨busy, tag, view, viewWrite⟩, drq, noSession, empty⟩ phase
      (by rw [cycle]; rfl) _ (by rw [cycle]; rfl) nofun nofun

/-! ### The firing -/

theorem no_session_of_not_streaming {s : State} (h : s.Inv) (notStreaming : s.phase.streams = false) :
    s.drq = false ∧ s.xferDir = .none := by
  have noSession : s.xferDir = .none := by
    by_contra isOpen
    rw [h.streams.mpr isOpen] at notStreaming
    cases notStreaming
  refine ⟨?_, noSession⟩
  rw [Bool.eq_false_iff]
  exact fun hd => h.drq.mp hd noSession

/-- The event taken out of its slot at its time. -/
def eventTaken (s : State) (t : Nat) : State := { s with now := t, slots := Slots.empty }

theorem Standing.eventTaken {s : State} (h : s.Inv) (t : Nat) : Standing (eventTaken s t) :=
  ⟨h.config, h.drive, h.media, h.head, h.target, h.index⟩

theorem Serving.eventTaken {s : State} (h : s.Inv) (notStreaming : s.phase.streams = false) (t : Nat) :
    Serving (eventTaken s t) :=
  have ⟨drq, noSession⟩ := no_session_of_not_streaming h notStreaming
  ⟨Standing.eventTaken h t, ⟨h.busy, h.tag, h.view, h.viewWrite⟩, drq, noSession, rfl⟩

/-- Each handler, run for the one event its phase awaits, keeps the invariant. -/
theorem inv_handler {s : State} (h : s.Inv) {k : EventKind} {x : Slot} (pending : s.slots = Slots.only k x)
    (awaited : s.phase.awaits k = true) : (handler k (eventTaken s x.fireTime)).Inv := by
  have phase := h.phase
  cases k with
  | stepSeek =>
    have seeking := seeking_of_awaits (.inl rfl) awaited
    rw [seeking] at phase
    exact inv_onStepSeek (Serving.eventTaken h (by rw [seeking]; rfl) _) (seek_of_fits phase) seeking
      (h.stepping (by rw [pending]; exact Option.some_ne_none x))
  | seekEnd => exact inv_onSeekEnd (Standing.eventTaken h _)
  | search =>
    have settling := settling_of_awaits awaited
    rw [settling] at phase
    exact inv_onSearch (Serving.eventTaken h (by rw [settling]; rfl) _) (isTransfer_of_fits_settling phase)
  | fiRearm =>
    have cycle := forceInterrupt_of_awaits awaited
    rw [cycle] at phase
    exact inv_onFiRearm (Serving.eventTaken h (by rw [cycle]; rfl) _) (forceInterrupt_of_fits phase) cycle
  | multi1 =>
    have searching := searching_of_awaits (.inl rfl) awaited
    rw [searching] at phase
    exact inv_onMulti1 (Serving.eventTaken h (by rw [searching]; rfl) _) (multi_of_fits_searching phase) searching
  | multi2 =>
    have searching := searching_of_awaits (.inr rfl) awaited
    rw [searching] at phase
    refine inv_typeIISearch (Serving.eventTaken h (by rw [searching]; rfl) _) ?_
    show s.cmdType.isTypeII = true
    rcases multi_of_fits_searching phase with e | e <;> rw [e] <;> rfl
  | dataLoss => exact inv_abort (Standing.eventTaken h _) _

theorem inv_fire {s : State} (h : s.Inv) : (fire s).Inv := by
  rcases h.pending with ⟨empty, -⟩ | ⟨k, x, pending, awaited, own, -⟩
  · rw [fire_none (by rw [empty, next_empty])]
    exact h
  · rw [fire_live (by rw [pending, next_only]) own, pending, only_put_none]
    exact inv_handler h pending awaited

end Sys2Proof.Proofs
end

section
/-! PROOFS. The port accesses, the commands and the other stimuli keep the invariant, and so every step does. -/

namespace Sys2Proof.Proofs

open Sys2Proof.Machine Sys2Proof.Laws

/-! ### The status, Track and Sector ports -/

/-- R131: a recomputation never writes BUSY. -/
theorem busy_recompute (s : State) : s.recompute.status.getLsbD bitBusy = s.status.getLsbD bitBusy := by
  cases view : s.statusView with
  | typeI => rw [getLsbD_recompute_typeI view]; simp [bitBusy, bitIndexOrDrq, bitTrack0OrLost, bitHeadOrFault,
      bitWriteProtect, bitNotReady]
  | typeIIandIII => rw [getLsbD_recompute_typeIIandIII view]; simp [bitBusy, bitIndexOrDrq, bitWriteProtect,
      bitNotReady]

theorem index_recompute {s : State} (h : s.Inv) : s.recompute.indexCtr < s.config.indexPeriod := by
  have before := h.index
  rw [recompute_eq]
  dsimp only
  split
  · exact Nat.mod_lt _ (by omega)
  · exact before

/-- R131, R132: a status read writes STATUS and the index counter as recomputed, clears IRQ and answers STATUS. -/
theorem readStatus_eq (s : State) : readStatus s =
    { s with
      status := s.recompute.status
      readValue := some s.recompute.status
      irq := false
      indexCtr := s.recompute.indexCtr } := by
  rw [readStatus, recompute_eq]
  rfl

theorem inv_readStatus {s : State} (h : s.Inv) : (readStatus s).Inv := by
  rw [readStatus_eq]
  exact ⟨h.config, h.drive, h.media, (busy_recompute s).trans h.busy, h.phase, h.tag, h.view, h.viewWrite, h.head,
    h.target, index_recompute h, h.drq, h.streams, h.session, h.crc, h.pending, h.stepping, h.arriving⟩

/-- The invariant looks neither at TRACK nor at SECTOR. -/
theorem inv_registers {s : State} (h : s.Inv) (track sector : Byte) :
    { s with track := track, sector := sector }.Inv :=
  ⟨h.config, h.drive, h.media, h.busy, h.phase, h.tag, h.view, h.viewWrite, h.head, h.target, h.index, h.drq,
    h.streams, h.session, h.crc, h.pending, h.stepping, h.arriving⟩

theorem inv_writeTrackPort {s : State} (h : s.Inv) (v : Byte) : (writeTrackPort v s).Inv := by
  unfold writeTrackPort
  split
  · exact h
  · exact inv_registers h v s.sector

theorem inv_writeSectorPort {s : State} (h : s.Inv) (v : Byte) : (writeSectorPort v s).Inv := by
  unfold writeSectorPort
  split
  · exact h
  · exact inv_registers h s.track v

/-! ### The Data port (R136, R137, R293, R294) -/

/-- While a session is open its phase streams, and the watchdog is the one event pending. -/
theorem watchdog_of_session {s : State} (h : s.Inv) (isOpen : s.xferDir ≠ .none) :
    s.phase.streams = true ∧
      ∃ x, s.slots = Slots.only .dataLoss x ∧ x.owner = s.cmdType ∧ s.now ≤ x.fireTime := by
  have streams := h.streams.mpr isOpen
  refine ⟨streams, ?_⟩
  rcases h.pending with ⟨-, quiet⟩ | ⟨k, x, pending, awaited, own, inTime⟩
  · rw [not_streams_of_mayBeQuiet quiet] at streams
    cases streams
  · obtain rfl : k = .dataLoss := by
      revert awaited streams
      cases s.phase <;> cases k <;> decide
    exact ⟨x, pending, own, inTime⟩

/-- No command both reads and writes. -/
theorem isWrite_of_isRead {c : CmdType} (h : c.isRead = true) : c.isWrite = false := by
  revert h
  cases c <;> decide

/-- A session of a read command is a read session (R291, R296). -/
theorem readSession_of_isRead {s : State} (h : s.Inv) (read : s.cmdType.isRead = true) (drq : s.drq = true) :
    s.xferDir = .read ∧ s.xferPos < s.xferLen ∧ s.xferBuf.length = s.xferLen ∧
      s.xferBuf[s.xferPos]? = some s.data := by
  have isOpen := h.drq.mp drq
  have session := h.session
  unfold State.SessionOk at session
  cases dir : s.xferDir with
  | none => exact absurd dir isOpen
  | read =>
    rw [dir] at session
    exact ⟨rfl, session.2⟩
  | write =>
    rw [dir] at session
    exact absurd session.1 (by rw [isWrite_of_isRead read]; decide)

/-- A session of a write command is a write session (R292, R296). -/
theorem writeSession_of_isWrite {s : State} (h : s.Inv) (write : s.cmdType.isWrite = true) (drq : s.drq = true) :
    s.xferDir = .write ∧ s.xferPos < s.xferLen ∧ s.xferBuf.length = s.xferPos := by
  have isOpen := h.drq.mp drq
  have session := h.session
  unfold State.SessionOk at session
  cases dir : s.xferDir with
  | none => exact absurd dir isOpen
  | write =>
    rw [dir] at session
    exact ⟨rfl, session.2⟩
  | read =>
    rw [dir] at session
    exact absurd write (by rw [isWrite_of_isRead session.1]; decide)

/-- R311, R313: feeding one more byte keeps the accumulator on the bytes streamed. -/
theorem crcAcc_snoc {on : Bool} {acc : Word16} {bytes : List Byte} (b : Byte)
    (h : acc = if on = true then crc16 bytes else 0xFFFF) :
    (if on = true then crcStep acc b else acc) = if on = true then crc16 (bytes ++ [b]) else 0xFFFF := by
  cases on with
  | true => rw [h, if_pos rfl, if_pos rfl, if_pos rfl, crc16_snoc]
  | false => exact h

/-- What a session's last byte leaves its end of record: the session closed, at most the watchdog pending. -/
theorem inv_closeRecord {s : State} (standing : Standing s) (owned : Owned s) (transfer : s.cmdType.isTransfer = true)
    {x : Slot} (armed : s.slots = Slots.only .dataLoss x) : (closeRecord s).Inv :=
  inv_endOfRecord (s := { s with drq := false, xferDir := .none })
    ⟨⟨standing.config, standing.drive, standing.media, standing.head, standing.target, standing.index⟩,
      ⟨owned.busy, owned.tag, owned.view, owned.viewWrite⟩, rfl, rfl, by rw [armed, only_put_none]⟩ transfer

theorem inv_transferReadByte {s : State} (h : s.Inv) (read : s.cmdType.isRead = true) (drq : s.drq = true) :
    (transferReadByte s).Inv := by
  have isOpen := h.drq.mp drq
  obtain ⟨streams, x, armed, own, inTime⟩ := watchdog_of_session h isOpen
  obtain ⟨dir, within, length, byte⟩ := readSession_of_isRead h read drq
  by_cases last : s.xferPos + 1 = s.xferLen
  · rw [transferReadByte_last byte last]
    exact inv_closeRecord ⟨h.config, h.drive, h.media, h.head, h.target, h.index⟩
      ⟨h.busy, h.tag, h.view, h.viewWrite⟩ (by rw [CmdType.isTransfer, read, Bool.true_or]) armed
  · have next : s.xferPos + 1 < s.xferBuf.length := by omega
    have streamed : s.xferBuf.take (s.xferPos + 1) = s.xferBuf.take s.xferPos ++ [s.data] := by
      rw [List.take_add_one, byte]
      rfl
    rw [transferReadByte_more byte (List.getElem?_eq_getElem next) last]
    refine inv_of_session (x := x) ⟨h.config, h.drive, h.media, h.head, h.target, h.index⟩
      ⟨h.busy, h.tag, h.view, h.viewWrite⟩ h.phase drq isOpen streams ?session ?crc armed own inTime
    case session =>
      unfold State.SessionOk
      dsimp only
      rw [dir]
      exact ⟨read, by omega, length, List.getElem?_eq_getElem next⟩
    case crc =>
      intro _
      dsimp only
      rw [streamed]
      exact crcAcc_snoc s.data (h.crc isOpen)

theorem inv_transferWriteByte {s : State} (h : s.Inv) (write : s.cmdType.isWrite = true) (drq : s.drq = true)
    (v : Byte) : (transferWriteByte v s).Inv := by
  have isOpen := h.drq.mp drq
  obtain ⟨streams, x, armed, own, inTime⟩ := watchdog_of_session h isOpen
  obtain ⟨dir, within, length⟩ := writeSession_of_isWrite h write drq
  by_cases last : s.xferPos + 1 = s.xferLen
  · rw [transferWriteByte_last v last]
    exact inv_closeRecord ⟨h.config, h.drive, h.media, h.head, h.target, h.index⟩
      ⟨h.busy, h.tag, h.view, h.viewWrite⟩ (by rw [CmdType.isTransfer, write, Bool.or_true]) armed
  · have collected : (s.xferBuf ++ [v]).length = s.xferPos + 1 := by rw [List.length_append, length]; rfl
    have streamed : (s.xferBuf ++ [v]).take (s.xferPos + 1) = s.xferBuf.take s.xferPos ++ [v] := by
      rw [← collected, List.take_length, ← length, List.take_length]
    rw [transferWriteByte_more v last]
    refine inv_of_session (x := x) ⟨h.config, h.drive, h.media, h.head, h.target, h.index⟩
      ⟨h.busy, h.tag, h.view, h.viewWrite⟩ h.phase drq isOpen streams ?session ?crc armed own inTime
    case session =>
      unfold State.SessionOk
      dsimp only
      rw [dir]
      exact ⟨write, by omega, collected⟩
    case crc =>
      intro _
      dsimp only
      rw [streamed]
      exact crcAcc_snoc v (h.crc isOpen)

/-- An open session belongs to a busy Type II/III command. -/
theorem busy_transfer_of_session {s : State} (h : s.Inv) (isOpen : s.xferDir ≠ .none) :
    (s.busy && s.cmdType.isTransfer) = true := by
  have phase := h.phase
  have streams := h.streams.mpr isOpen
  rw [h.busy]
  revert phase streams
  cases s.cmdType <;> cases s.phase <;> decide

theorem inv_writeDataPort {s : State} (h : s.Inv) (v : Byte) : (writeDataPort v s).Inv := by
  unfold writeDataPort
  split
  · next feeds =>
    rw [Bool.and_eq_true] at feeds
    exact inv_transferWriteByte h feeds.1 feeds.2 v
  · split
    · exact h
    · next free =>
      have noSession : s.xferDir = .none := by
        by_contra isOpen
        exact free (busy_transfer_of_session h isOpen)
      refine ⟨h.config, h.drive, h.media, h.busy, h.phase, h.tag, h.view, h.viewWrite, h.head, h.target, h.index, h.drq,
        h.streams, ?_, h.crc, h.pending, h.stepping, h.arriving⟩
      unfold State.SessionOk
      dsimp only
      rw [noSession]
      trivial

theorem inv_readDataPort {s : State} (h : s.Inv) : (readDataPort s).Inv := by
  unfold readDataPort
  split
  · next drains =>
    rw [Bool.and_eq_true] at drains
    have read := inv_transferReadByte h drains.1 drains.2
    exact inv_outside read (transferReadByte s).host (some s.nextByte) (transferReadByte s).draws
  · exact inv_outside h s.host (some s.data) s.draws

theorem inv_readPort {s : State} (h : s.Inv) (p : Port) : (readPort p s).Inv := by
  cases p with
  | control => exact inv_readStatus h
  | track => exact inv_outside h s.host (some s.track) s.draws
  | sector => exact inv_outside h s.host (some s.sector) s.draws
  | data => exact inv_readDataPort h

/-! ### The commands -/

theorem inv_typeIStarted {s : State} (h : Standing s) {i : Instr} (seek : tagOf i = .seek) (flag : Bool)
    (r : BitVec 2) {target : Nat} (inRange : target ≤ s.config.maxTrack) (dir : Direction) :
    (typeIStarted s (encode i) flag r target dir).Inv := by
  have serving : Serving { typeIAccepted s (encode i) with
      seekTarget := target, stepVector := dir, headEngaged := flag } := by
    refine ⟨⟨h.config, h.drive, h.media, h.head, inRange, h.index⟩, ⟨?_, fun _ => ?_, fun _ => rfl, nofun⟩, rfl, rfl, rfl⟩
    · show (if s.ready = true then 0x01 else 0x81 : Byte).getLsbD 0 = true
      split <;> rfl
    · show CmdType.seek = tagOf (decode (encode i))
      rw [decode_encode, seek]
  by_cases there : target = s.physicalTrack
  · have started : typeIStarted s (encode i) flag r target dir = State.schedule { typeIAccepted s (encode i) with
        seekTarget := target, stepVector := dir, headEngaged := flag } .seekEnd s.config.delays.seekEnd := by
      rw [typeIStarted, if_pos there]
      rfl
    rw [started]
    exact inv_of_scheduled serving rfl rfl _ rfl nofun (fun _ => there.symm)
  · have started : typeIStarted s (encode i) flag r target dir = State.schedule { typeIAccepted s (encode i) with
        seekTarget := target, stepVector := dir, headEngaged := flag } .stepSeek (s.config.delays.step r) := by
      rw [typeIStarted, if_neg there]
      rfl
    rw [started]
    exact inv_of_scheduled serving rfl rfl _ rfl (fun _ => Ne.symm there) nofun

theorem inv_transferStarted {s : State} (h : Standing s) {i : Instr} (transfer : (tagOf i).isTransfer = true) :
    (transferStarted s (encode i) (tagOf i) (tagOf i).isWrite).Inv := by
  have facts : (tagOf i).isBusy = true ∧ tagOf i ≠ .seek ∧ (tagOf i).fits .settling = true := by
    revert transfer
    cases tagOf i <;> decide
  obtain ⟨busy, notSeek, settling⟩ := facts
  have serving : Serving { transferAccepted s (encode i) (tagOf i) with
      status := 0x01, headEngaged := true, settlePending := false, phase := .settling } := by
    refine ⟨⟨h.config, h.drive, h.media, h.head, h.target, h.index⟩,
      ⟨?_, fun _ => ?_, fun _ => (if_neg notSeek).symm, fun _ => rfl⟩, rfl, rfl, rfl⟩
    · show (0x01 : Byte).getLsbD bitBusy = (tagOf i).isBusy
      rw [busy]
      rfl
    · show tagOf i = tagOf (decode (encode i))
      rw [decode_encode]
  exact inv_of_scheduled serving settling rfl _ rfl nofun nofun

/-- R153: whichever check fails, the command ends; else it waits for its SEARCH. -/
theorem inv_prologue {s : State} (h : Standing s) {i : Instr} (transfer : (tagOf i).isTransfer = true) :
    (transferAccepted s (encode i) (tagOf i)).prologue.Inv := by
  have aborted (v : Byte) : (transferAborted s (encode i) v (tagOf i).isWrite).Inv :=
    inv_ended (s := { s with command := encode i, statusView := .typeIIandIII, viewWrite := (tagOf i).isWrite })
      ⟨h.config, h.drive, h.media, h.head, h.target, h.index⟩ v
  cases ready : s.ready with
  | false =>
    rw [prologue_not_ready ready]
    exact aborted _
  | true =>
    rw [prologue_ready ready]
    split
    · exact aborted _
    · split
      · exact aborted _
      · exact inv_transferStarted h transfer

/-- R272, R273: the Type IV cycle, with its timer armed or not. -/
theorem inv_fiSignal_interrupted {s : State} (h : Standing s) (cond latch : BitVec 4) :
    (interrupted s cond latch).fiSignal.Inv := by
  have serving (irq ref : Bool) : Serving { interrupted s cond latch with irq := irq, fiReadyRef := ref } := by
    refine ⟨⟨h.config, h.drive, h.media, h.head, h.target, h.index⟩, ⟨?_, fun _ => ?_, nofun, nofun⟩, rfl, rfl, rfl⟩
    · show (setBit s.status bitBusy false).getLsbD bitBusy = false
      rw [getLsbD_setBit _ _ _ _ (by decide), if_pos rfl]
    · show CmdType.forceInterrupt = tagOf (decode (encode (.forceInterrupt cond)))
      rw [decode_encode]
      rfl
  rw [fiSignal_interrupted]
  by_cases armed : latch.getLsbD 3 = false ∧ latch ≠ 0
  · rw [if_pos armed, if_pos armed]
    exact inv_of_scheduled (serving (latch.getLsbD 3) s.ready) rfl rfl s.config.delays.fi rfl nofun nofun
  · rw [if_neg armed, if_neg armed]
    exact inv_of_quiet (serving (latch.getLsbD 3) s.fiReadyRef) rfl rfl

theorem inv_forceInterrupt {s t : State} (h : Standing s) (cond : BitVec 4)
    (e : exec (.forceInterrupt cond) s = .next t) : t.Inv := by
  rw [exec_eq, acceptCommand_free (.inr rfl), body, forceInterrupt_accept] at e
  exact Host.Outcome.next.inj e ▸ inv_fiSignal_interrupted h cond _

/-- A step answers one state, so its invariant may be shown of the state in the form a lemma gives it. -/
theorem inv_of_next {o : Host.Outcome State Fault Refusal} {t u : State} (h : u.Inv) (answered : o = .next t)
    (known : o = .next u) : t.Inv := by
  rw [answered] at known
  exact Host.Outcome.next.inj known ▸ h

theorem inv_exec_of_not_busy {s t : State} (h : Standing s) (free : s.busy = false) (i : Instr)
    (e : exec i s = .next t) : t.Inv := by
  obtain ⟨restore, seek, step, stepIn, stepOut⟩ := typeICommandsStartTheHead s free
  have waits {i : Instr} (transfer : (tagOf i).isTransfer = true) (e : exec i s = .next t)
      (effect : body i (s.accept i) = (s.accept i).dispatchTransfer (tagOf i)) : t.Inv :=
    inv_of_next (inv_prologue h transfer) e (exec_transfer free effect)
  cases i with
  | restore hd v r => exact inv_of_next (inv_typeIStarted h rfl _ _ (Nat.zero_le _) _) e (restore hd v r)
  | seek hd v r => exact inv_of_next (inv_typeIStarted h rfl _ _ (Nat.min_le_right _ _) _) e (seek hd v r)
  | step u hd v r => exact inv_of_next (inv_typeIStarted h rfl _ _ (Nat.min_le_right _ _) _) e (step u hd v r)
  | stepIn u hd v r => exact inv_of_next (inv_typeIStarted h rfl _ _ (Nat.min_le_right _ _) _) e (stepIn u hd v r)
  | stepOut u hd v r => exact inv_of_next (inv_typeIStarted h rfl _ _ (Nat.min_le_right _ _) _) e (stepOut u hd v r)
  | readSector sd ef c x0 => exact waits rfl e rfl
  | readMultiple sd ef c x0 => exact waits rfl e rfl
  | writeSector sd ef c a0 => exact waits rfl e rfl
  | writeMultiple sd ef c a0 => exact waits rfl e rfl
  | readAddress x3 ef x1 x0 => exact waits rfl e rfl
  | forceInterrupt cond => exact inv_forceInterrupt h cond e
  | readTrack x3 ef x1 x0 => exact waits rfl e rfl
  | writeTrack x3 ef x1 x0 => exact waits rfl e rfl

theorem inv_exec {s t : State} (h : s.Inv) (i : Instr) (e : exec i s = .next t) : t.Inv := by
  have standing := Standing.of_inv h
  cases busy : s.busy with
  | false => exact inv_exec_of_not_busy standing busy i e
  | true =>
    cases force : isForceInterrupt i with
    | false => exact inv_of_next h e (exec_of_busy busy force)
    | true =>
      obtain ⟨cond, rfl⟩ := isForceInterrupt_eq_true force
      exact inv_forceInterrupt standing cond e

/-! ### Every stimulus -/

theorem inv_setInputs {s : State} (h : s.Inv) {drive : Nat} (exists' : drive < s.media.length) (side motor : Bool) :
    (setInputs drive side motor s).Inv :=
  ⟨h.config, exists', h.media, h.busy, h.phase, h.tag, h.view, h.viewWrite, h.head, h.target, h.index, h.drq,
    h.streams, h.session, h.crc, h.pending, h.stepping, h.arriving⟩

theorem inv_resetBlock {s : State} (h : s.Inv) : s.resetBlock.Inv := by
  have index : 0 < s.config.indexPeriod := Nat.zero_lt_of_lt h.index
  exact inv_of_quiet (s := s.resetBlock) ⟨⟨h.config, h.drive, h.media, Nat.zero_le _, Nat.zero_le _, index⟩,
    ⟨show (0x00 : Byte).getLsbD bitBusy = false from rfl, fun notIdle => absurd rfl notIdle, nofun, nofun⟩, rfl, rfl,
    rfl⟩ rfl rfl

/-- R67: another unit within the contract in a drive. -/
theorem inv_media {s : State} (h : s.Inv) (drive : Nat) {u : MediaUnit} (hu : u.wf = true) :
    { s with media := s.media.set drive u }.Inv := by
  refine ⟨h.config, ?_, ?_, h.busy, h.phase, h.tag, h.view, h.viewWrite, h.head, h.target, h.index, h.drq,
    h.streams, h.session, h.crc, h.pending, h.stepping, h.arriving⟩
  · rw [List.length_set]
    exact h.drive
  · intro x hx
    rcases List.mem_or_eq_of_mem_set hx with old | new
    · exact h.media x old
    · exact new ▸ hu

theorem inv_writePort {s t : State} (h : s.Inv) (p : Port) (v : Byte) (e : writePort p v s = .next t) : t.Inv := by
  cases p with
  | control => exact inv_exec h (decode v) e
  | track => exact Host.Outcome.next.inj e ▸ inv_writeTrackPort h v
  | sector => exact Host.Outcome.next.inj e ▸ inv_writeSectorPort h v
  | data => exact Host.Outcome.next.inj e ▸ inv_writeDataPort h v

theorem inv_takeStimulus {s t : State} (h : s.Inv) (x : Stimulus) (e : takeStimulus x s = .next t) : t.Inv := by
  cases x with
  | write p v => exact inv_writePort h p v e
  | read p => exact Host.Outcome.next.inj e ▸ inv_readPort h p
  | fire => exact Host.Outcome.next.inj e ▸ inv_fire h
  | reset => exact Host.Outcome.next.inj e ▸ inv_resetBlock h
  | set drive side motor =>
    unfold takeStimulus at e
    dsimp only at e
    split at e
    · next there => exact Host.Outcome.next.inj e ▸ inv_setInputs h there side motor
    · cases e
  | media drive unit =>
    unfold takeStimulus at e
    dsimp only at e
    split at e
    · cases e
    · split at e
      · next wf => exact Host.Outcome.next.inj e ▸ inv_media h drive wf
      · cases e

/-- Settles O53: a step takes a stimulus or fires, and each keeps the invariant (`inv_takeStimulus`, `inv_fire`). -/
theorem everyStepKeepsTheInvariant : Obligations.EveryStepKeepsTheInvariant := by
  intro s t h e
  cases host : s.host with
  | nil => exact inv_of_next (inv_fire h) e (step_nil host)
  | cons x rest =>
    rw [step_cons host] at e
    exact inv_takeStimulus (inv_host h rest) x e

/-- Settles O52: the reset state is a quiet one. -/
theorem resetStateMeetsTheInvariant : Obligations.ResetStateMeetsTheInvariant :=
  inv_of_quiet ⟨⟨by decide, by decide, by decide, by decide, by decide, by decide⟩,
    ⟨by decide, fun notIdle => absurd rfl notIdle, nofun, nofun⟩, rfl, rfl, rfl⟩ rfl rfl

end Sys2Proof.Proofs
end

section
/-! PROOFS. Two states that differ only in time, in the ignored bits of COMMAND and in the stimuli still to come stay so
under every operation (spec/30_encoding.md R100, spec/48_scheduler.md R339 to R341). -/

namespace Sys2Proof.Proofs

open Sys2Proof.Machine Sys2Proof.Laws

/-! ### The bits of a command byte that a rule reads (R94, R96, R100) -/

theorem tagOf_significant : ∀ b : Byte, tagOf (decode (significant b)) = tagOf (decode b) := by decide

theorem tagOf_eq_of_significant {b c : Byte} (h : significant c = significant b) :
    tagOf (decode c) = tagOf (decode b) := by
  rw [← tagOf_significant c, h, tagOf_significant]

/-- Type I and Type IV bytes have no ignored bit. -/
theorem significant_of_not_transfer :
    ∀ b : Byte, (tagOf (decode b)).isTransfer = false → significant b = b := by decide

theorem eq_of_significant_of_not_transfer {b c : Byte} (h : significant c = significant b)
    (notTransfer : (tagOf (decode b)).isTransfer = false) : c = b := by
  rw [← significant_of_not_transfer b notTransfer, ← h, significant_of_not_transfer c]
  rw [tagOf_eq_of_significant h, notTransfer]

/-- Type II bytes keep C and S. -/
theorem compare_significant : ∀ b : Byte, (tagOf (decode b)).isTypeII = true →
    (significant b).getLsbD 1 = b.getLsbD 1 ∧ (significant b).getLsbD 3 = b.getLsbD 3 := by decide

theorem compare_of_significant {b c : Byte} (h : significant c = significant b)
    (typeII : (tagOf (decode b)).isTypeII = true) : c.getLsbD 1 = b.getLsbD 1 ∧ c.getLsbD 3 = b.getLsbD 3 := by
  obtain ⟨b1, b3⟩ := compare_significant b typeII
  obtain ⟨c1, c3⟩ := compare_significant c (by rw [tagOf_eq_of_significant h, typeII])
  rw [← b1, ← b3, ← c1, ← c3, h]
  exact ⟨rfl, rfl⟩

/-- The sector writes keep a0. -/
theorem mark_significant : ∀ b : Byte,
    (tagOf (decode b) = .writeSector ∨ tagOf (decode b) = .writeMulti) → (significant b).getLsbD 0 = b.getLsbD 0 := by
  decide

theorem mark_of_significant {b c : Byte} (h : significant c = significant b)
    (tag : tagOf (decode b) = .writeSector ∨ tagOf (decode b) = .writeMulti) : c.getLsbD 0 = b.getLsbD 0 := by
  rw [← mark_significant b tag, ← mark_significant c (by rwa [tagOf_eq_of_significant h]), h]

/-! ### Twins -/

/-- `s` with another COMMAND, other stimuli to come, another clock, other pending events and other delays. -/
def disguised (c : Byte) (host : List Stimulus) (n : Nat) (q : Slots) (d : Delays) (s : State) : State :=
  { s with command := c, host := host, now := n, slots := q, config := { s.config with delays := d } }

/-- The running command is the one COMMAND holds (`State.Inv.tag`). -/
def Tagged (s : State) : Prop := s.cmdType ≠ .idle → s.cmdType = tagOf (decode s.command)

/-- What two states may differ in: time, unless `timed`; the ignored bits of COMMAND, unless `exact` and only while the
command in force is the one COMMAND holds; the stimuli to come, `hs` and `ht`. -/
inductive Twin (timed exact : Prop) (hs ht : List Stimulus) (s : State) : State → Prop
  | intro (c : Byte) (n : Nat) (q : Slots) (d : Delays) (host : s.host = hs)
      (pending : q.timeless = s.slots.timeless)
      (time : timed → n = s.now ∧ q = s.slots ∧ d = s.config.delays)
      (command : c = s.command ∨ (¬ exact ∧ significant c = significant s.command ∧ Tagged s)) :
      Twin timed exact hs ht s (disguised c ht n q d s)

variable {timed exact : Prop} {hs ht : List Stimulus} {s t : State}

/-! ### Taking a byte, an event, an end -/

theorem Twin.complete (h : Twin timed exact hs ht s t) : Twin timed exact hs ht s.complete t.complete := by
  obtain ⟨c, n, q, d, host, pending, time, command⟩ := h
  exact .intro (s := s.complete) c n Slots.empty d host rfl (fun ht => ⟨(time ht).1, rfl, (time ht).2.2⟩)
    (command.imp_right fun ⟨differ, same, _⟩ => ⟨differ, same, fun h => absurd rfl h⟩)

/-- An update of the fields that twins share. -/
theorem Twin.update (h : Twin timed exact hs ht s t) (g : State → State)
    (shared : ∀ h n q d, g (disguised t.command h n q d s) = disguised t.command h n q d (g s))
    (keeps : (g s).host = s.host ∧ (g s).slots = s.slots ∧ (g s).now = s.now ∧ (g s).config = s.config ∧
      (g s).command = s.command ∧ (g s).cmdType = s.cmdType) : Twin timed exact hs ht (g s) (g t) := by
  obtain ⟨c, n, q, d, host, pending, time, command⟩ := h
  obtain ⟨keepsHost, keepsSlots, keepsNow, keepsConfig, keepsCommand, keepsTag⟩ := keeps
  have result : g (disguised c ht n q d s) = disguised c ht n q d (g s) := shared ht n q d
  rw [result]
  refine .intro c n q d (keepsHost.trans host) (by rw [pending, keepsSlots]) ?_ ?_
  · rw [keepsNow, keepsSlots, keepsConfig]
    exact time
  · unfold Tagged
    rw [keepsCommand, keepsTag]
    exact command

theorem Twin.schedule (h : Twin timed exact hs ht s t) (k : EventKind) {d d' : Nat}
    (delay : timed → d' = d) : Twin timed exact hs ht (s.schedule k d) (t.schedule k d') := by
  obtain ⟨c, n, q, dl, host, pending, time, command⟩ := h
  refine .intro (s := s.schedule k d) c n (q.put k (some ⟨n + d', s.cmdType⟩)) dl host ?_ ?_ command
  · rw [schedule_slots, timeless_put, timeless_put, pending]
    rfl
  · intro same
    obtain ⟨hn, hq, hd⟩ := time same
    refine ⟨hn, ?_, hd⟩
    rw [hn, hq, delay same]
    rfl

theorem Twin.cancel (h : Twin timed exact hs ht s t) (k : EventKind) :
    Twin timed exact hs ht (s.cancel k) (t.cancel k) := by
  obtain ⟨c, n, q, d, host, pending, time, command⟩ := h
  refine .intro (s := s.cancel k) c n (q.put k none) d host ?_ ?_ command
  · rw [cancel_slots, timeless_put, timeless_put, pending]
  · intro same
    obtain ⟨hn, hq, hd⟩ := time same
    exact ⟨hn, by rw [hq]; rfl, hd⟩

/-- The errors a command ends with are bits of STATUS, which twins share. -/
theorem Twin.abort (h : Twin timed exact hs ht s t) (e : List ErrorBit) :
    Twin timed exact hs ht (s.abort e) (t.abort e) :=
  Twin.complete (h.update (fun s => { s with status := setErrorBits s.status e }) (fun _ _ _ _ => rfl)
    ⟨rfl, rfl, rfl, rfl, rfl, rfl⟩)

/-- Twins have the same delays where they have the same time. -/
theorem Twin.delays (h : Twin timed exact hs ht s t) (same : timed) : t.config.delays = s.config.delays := by
  obtain ⟨c, n, q, d, host, pending, time, command⟩ := h
  exact (time same).2.2

/-- What twins share. -/
theorem Twin.cmdType (h : Twin timed exact hs ht s t) : t.cmdType = s.cmdType := by cases h; rfl
theorem Twin.unit (h : Twin timed exact hs ht s t) : t.unit = s.unit := by cases h; rfl
theorem Twin.ready (h : Twin timed exact hs ht s t) : t.ready = s.ready := by cases h; rfl

/-! ### The ends of record -/

theorem Twin.goesOn (h : Twin timed exact hs ht s t) :
    Twin timed exact hs ht (State.schedule { s with phase := .searching } .multi1 s.config.delays.multi1)
      (State.schedule { t with phase := .searching } .multi1 t.config.delays.multi1) :=
  Twin.schedule (h.update (fun s => { s with phase := .searching }) (fun _ _ _ _ => rfl)
    ⟨rfl, rfl, rfl, rfl, rfl, rfl⟩) .multi1 fun same => by rw [h.delays same]

/-- A record's end: the next sector of a multi-sector command, else the command's end. -/
theorem Twin.goesOnOrCompletes (h : Twin timed exact hs ht s t) (tag : CmdType) :
    Twin timed exact hs ht
      (if s.cmdType = tag then State.schedule { s with phase := .searching } .multi1 s.config.delays.multi1
        else s.complete)
      (if t.cmdType = tag then State.schedule { t with phase := .searching } .multi1 t.config.delays.multi1
        else t.complete) := by
  by_cases multi : s.cmdType = tag
  · rw [if_pos multi, if_pos (h.cmdType.trans multi)]
    exact h.goesOn
  · rw [if_neg multi, if_neg (mt h.cmdType.symm.trans multi)]
    exact h.complete

theorem Twin.endReadRecord (h : Twin timed exact hs ht s t) :
    Twin timed exact hs ht (endReadRecord s) (endReadRecord t) := by
  have cancelled := h.cancel .dataLoss
  have mismatch : CrcMismatch t ↔ CrcMismatch s := by cases h; rfl
  by_cases bad : CrcMismatch s
  · rw [endReadRecord_of_mismatch bad, endReadRecord_of_mismatch (mismatch.mpr bad)]
    exact cancelled.abort _
  · rw [endReadRecord_of_no_mismatch bad, endReadRecord_of_no_mismatch (mt mismatch.mp bad)]
    exact cancelled.goesOnOrCompletes .readMulti

theorem Twin.memWrite (h : Twin timed exact hs ht s t) (off : Nat) (bytes : List Byte) :
    Twin timed exact hs ht (s.memWrite off bytes).1 (t.memWrite off bytes).1 :=
  h.update (fun s => (s.memWrite off bytes).1) (fun _ _ _ _ => rfl) ⟨rfl, rfl, rfl, rfl, rfl, rfl⟩

theorem Twin.formatTrack (h : Twin timed exact hs ht s t) (track : Nat) (side : Bool) :
    Twin timed exact hs ht (s.formatTrack track side) (t.formatTrack track side) :=
  h.update (fun s => s.formatTrack track side) (fun _ _ _ _ => rfl) ⟨rfl, rfl, rfl, rfl, rfl, rfl⟩

/-- R217: the deleted mark of a sector write is a bit the twins share. -/
theorem Twin.mark (h : Twin timed exact hs ht s t) (tag : s.cmdType = .writeSector ∨ s.cmdType = .writeMulti) :
    t.command.getLsbD 0 = s.command.getLsbD 0 := by
  obtain ⟨c, n, q, d, host, pending, time, command⟩ := h
  rcases command with same | ⟨-, same, tagged⟩
  · rw [same]
    rfl
  · have notIdle : s.cmdType ≠ .idle := by rcases tag with e | e <;> rw [e] <;> decide
    exact mark_of_significant same (by rwa [← tagged notIdle])

theorem Twin.recordMetadata (h : Twin timed exact hs ht s t)
    (tag : s.cmdType = .writeSector ∨ s.cmdType = .writeMulti) :
    Twin timed exact hs ht s.recordMetadata t.recordMetadata := by
  refine h.update State.recordMetadata (fun host n q d => ?_) ⟨rfl, rfl, rfl, rfl, rfl, rfl⟩
  have mark : (disguised t.command host n q d s).flagA0 = s.flagA0 := h.mark tag
  rw [recordMetadata_eq, recordMetadata_eq, mark]
  rfl

/-- R217 past the commit, in the state the metadata is written in. -/
theorem endWriteRecord_eq (s : State) : endWriteRecord s =
    if s.unit.writeFails s.recOffset s.xferBuf.length = true then
      ((s.cancel .dataLoss).memWrite s.recOffset s.xferBuf).1.abort [.writeFault]
    else if ((s.cancel .dataLoss).memWrite s.recOffset s.xferBuf).1.recordMetadata.cmdType = .writeMulti then
      State.schedule { ((s.cancel .dataLoss).memWrite s.recOffset s.xferBuf).1.recordMetadata with
        phase := .searching } .multi1
        ((s.cancel .dataLoss).memWrite s.recOffset s.xferBuf).1.recordMetadata.config.delays.multi1
    else ((s.cancel .dataLoss).memWrite s.recOffset s.xferBuf).1.recordMetadata.complete := by
  have tag : ((s.cancel .dataLoss).memWrite s.recOffset s.xferBuf).1.recordMetadata.cmdType = s.cmdType := by
    rw [recordMetadata_eq, memWrite_fst]
    rfl
  have delays : ((s.cancel .dataLoss).memWrite s.recOffset s.xferBuf).1.recordMetadata.config = s.config := by
    rw [recordMetadata_eq, memWrite_fst]
    rfl
  rw [tag, delays]
  rcases endWriteRecord_cases s with ⟨fails, e⟩ | ⟨fails, e⟩ <;> rw [e, fails] <;> rfl

theorem Twin.endWriteRecord (h : Twin timed exact hs ht s t)
    (tag : s.cmdType = .writeSector ∨ s.cmdType = .writeMulti) :
    Twin timed exact hs ht (endWriteRecord s) (endWriteRecord t) := by
  have commit : t.unit = s.unit ∧ t.recOffset = s.recOffset ∧ t.xferBuf = s.xferBuf := by cases h; exact ⟨rfl, rfl, rfl⟩
  obtain ⟨unit, offset, buffer⟩ := commit
  have written := (h.cancel .dataLoss).memWrite s.recOffset s.xferBuf
  rw [endWriteRecord_eq, endWriteRecord_eq, unit, offset, buffer]
  cases s.unit.writeFails s.recOffset s.xferBuf.length with
  | true => exact written.abort _
  | false => exact (written.recordMetadata tag).goesOnOrCompletes .writeMulti

theorem Twin.endWriteTrack (h : Twin timed exact hs ht s t) :
    Twin timed exact hs ht (endWriteTrack s) (endWriteTrack t) := by
  have formatted := (h.cancel .dataLoss).formatTrack s.recTrack s.recSide
  have written := formatted.memWrite s.recOffset s.xferBuf
  have answer : ((t.cancel .dataLoss).formatTrack t.recTrack t.recSide |>.memWrite t.recOffset t.xferBuf).2 =
      ((s.cancel .dataLoss).formatTrack s.recTrack s.recSide |>.memWrite s.recOffset s.xferBuf).2 := by
    cases h; rfl
  have place : t.recTrack = s.recTrack ∧ t.recSide = s.recSide ∧ t.recOffset = s.recOffset ∧ t.xferBuf = s.xferBuf := by
    cases h; exact ⟨rfl, rfl, rfl, rfl⟩
  obtain ⟨track, side, offset, buffer⟩ := place
  unfold Machine.endWriteTrack
  dsimp only
  rw [answer, track, side, offset, buffer]
  split
  · exact written.abort _
  · exact written.complete

theorem Twin.endOfRecord (h : Twin timed exact hs ht s t) :
    Twin timed exact hs ht (endOfRecord s) (endOfRecord t) := by
  unfold Machine.endOfRecord
  rw [h.cmdType]
  cases tag : s.cmdType with
  | readSector => exact h.endReadRecord
  | readMulti => exact h.endReadRecord
  | writeSector => exact h.endWriteRecord (.inl tag)
  | writeMulti => exact h.endWriteRecord (.inr tag)
  | readAddress => exact (h.cancel .dataLoss).complete
  | readTrack => exact (h.cancel .dataLoss).complete
  | writeTrack => exact h.endWriteTrack
  | idle => exact h
  | seek => exact h
  | forceInterrupt => exact h

/-! ### The openings and the bytes of a session -/

theorem Twin.openRead (h : Twin timed exact hs ht s t) (track : Nat) (side : Bool) (k : Byte) (off : Nat)
    (bytes : List Byte) (crcOn : Bool) :
    Twin timed exact hs ht (openRead track side k off bytes crcOn s) (openRead track side k off bytes crcOn t) := by
  have session := h.update (fun s => s.openSession .read track side k off bytes bytes.length crcOn)
    (fun _ _ _ _ => rfl) ⟨rfl, rfl, rfl, rfl, rfl, rfl⟩
  cases bytes with
  | nil =>
    exact (session.update (fun s => { s with xferDir := .none }) (fun _ _ _ _ => rfl)
      ⟨rfl, rfl, rfl, rfl, rfl, rfl⟩).endOfRecord
  | cons b bs =>
    exact (session.update (fun s => { s with data := b, drq := true }) (fun _ _ _ _ => rfl)
      ⟨rfl, rfl, rfl, rfl, rfl, rfl⟩).schedule .dataLoss fun same => by rw [session.delays same]

theorem Twin.openWrite (h : Twin timed exact hs ht s t) (track : Nat) (side : Bool) (k : Byte) (off len : Nat)
    (crcOn : Bool) :
    Twin timed exact hs ht (openWrite track side k off len crcOn s) (openWrite track side k off len crcOn t) := by
  have session := h.update (fun s => s.openSession .write track side k off [] len crcOn)
    (fun _ _ _ _ => rfl) ⟨rfl, rfl, rfl, rfl, rfl, rfl⟩
  unfold Machine.openWrite
  dsimp only
  split
  · exact (session.update (fun s => { s with xferDir := .none }) (fun _ _ _ _ => rfl)
      ⟨rfl, rfl, rfl, rfl, rfl, rfl⟩).endOfRecord
  · exact (session.update (fun s => { s with drq := true }) (fun _ _ _ _ => rfl)
      ⟨rfl, rfl, rfl, rfl, rfl, rfl⟩).schedule .dataLoss fun same => by rw [session.delays same]

theorem Twin.closeRecord (h : Twin timed exact hs ht s t) :
    Twin timed exact hs ht (closeRecord s) (closeRecord t) :=
  (h.update (fun s => { s with drq := false, xferDir := .none }) (fun _ _ _ _ => rfl)
    ⟨rfl, rfl, rfl, rfl, rfl, rfl⟩).endOfRecord

/-- The byte counted and fed to the CRC (R293). -/
def byteServed (s : State) : State :=
  { s with
    xferPos := s.xferPos + 1
    crcAcc := if s.xferCrcOn = true then crcStep s.crcAcc s.nextByte else s.crcAcc }

theorem transferReadByte_eq (s : State) : transferReadByte s =
    if s.xferPos + 1 = s.xferLen then closeRecord (byteServed s)
    else { byteServed s with data := (byteServed s).nextByte } := by
  unfold transferReadByte
  rw [streamCrc_eq]
  rfl

theorem Twin.transferReadByte (h : Twin timed exact hs ht s t) :
    Twin timed exact hs ht (transferReadByte s) (transferReadByte t) := by
  have served := h.update byteServed (fun _ _ _ _ => rfl) ⟨rfl, rfl, rfl, rfl, rfl, rfl⟩
  have ends : t.xferPos + 1 = t.xferLen ↔ s.xferPos + 1 = s.xferLen := by cases h; rfl
  rw [transferReadByte_eq, transferReadByte_eq]
  by_cases last : s.xferPos + 1 = s.xferLen
  · rw [if_pos last, if_pos (ends.mpr last)]
    exact served.closeRecord
  · rw [if_neg last, if_neg (mt ends.mp last)]
    exact served.update (fun s => { s with data := s.nextByte }) (fun _ _ _ _ => rfl) ⟨rfl, rfl, rfl, rfl, rfl, rfl⟩

/-- The byte collected, counted and fed to the CRC (R294). -/
def byteCollected (v : Byte) (s : State) : State :=
  { s with
    data := v
    xferBuf := s.xferBuf ++ [v]
    xferPos := s.xferPos + 1
    crcAcc := if s.xferCrcOn = true then crcStep s.crcAcc v else s.crcAcc }

theorem transferWriteByte_eq (v : Byte) (s : State) : transferWriteByte v s =
    if s.xferPos + 1 = s.xferLen then closeRecord (byteCollected v s) else byteCollected v s := by
  unfold transferWriteByte
  rw [streamCrc_eq]
  rfl

theorem Twin.transferWriteByte (h : Twin timed exact hs ht s t) (v : Byte) :
    Twin timed exact hs ht (transferWriteByte v s) (transferWriteByte v t) := by
  have collected := h.update (byteCollected v) (fun _ _ _ _ => rfl) ⟨rfl, rfl, rfl, rfl, rfl, rfl⟩
  have ends : t.xferPos + 1 = t.xferLen ↔ s.xferPos + 1 = s.xferLen := by cases h; rfl
  rw [transferWriteByte_eq, transferWriteByte_eq]
  by_cases last : s.xferPos + 1 = s.xferLen
  · rw [if_pos last, if_pos (ends.mpr last)]
    exact collected.closeRecord
  · rw [if_neg last, if_neg (mt ends.mp last)]
    exact collected

end Sys2Proof.Proofs
end

section
/-! PROOFS. Twins under the event handlers, the ports and the commands. -/

namespace Sys2Proof.Proofs

open Sys2Proof.Machine Sys2Proof.Laws

variable {timed exact : Prop} {hs ht : List Stimulus} {s t : State}

/-! ### Type I (R186 to R188) -/

/-- A byte without ignored bits is the same for twins. -/
theorem Twin.command_eq (h : Twin timed exact hs ht s t)
    (apt : exact ∨ s.cmdType = .seek ∨ s.cmdType = .forceInterrupt) : t.command = s.command := by
  obtain ⟨c, n, q, d, host, pending, time, command⟩ := h
  rcases command with same | ⟨differ, same, tagged⟩
  · exact same
  · have facts : s.cmdType ≠ .idle ∧ s.cmdType.isTransfer = false := by
      rcases apt.resolve_left differ with e | e <;> rw [e] <;> decide
    exact eq_of_significant_of_not_transfer same (by rw [← tagged facts.1, facts.2])

theorem Twin.startMotion (h : Twin timed exact hs ht s t) (same : t.command = s.command) :
    Twin timed exact hs ht s.startMotion t.startMotion := by
  have there : t.seekTarget = t.physicalTrack ↔ s.seekTarget = s.physicalTrack := by cases h; rfl
  rcases startMotion_cases s with ⟨off, e⟩ | ⟨on, e⟩ <;> rcases startMotion_cases t with ⟨off', e'⟩ | ⟨on', e'⟩
  · rw [e, e']
    exact h.schedule .stepSeek fun now => by rw [State.stepDelay, State.stepDelay, h.delays now, same]
  · exact absurd (there.mp on') off
  · exact absurd (there.mpr on) off'
  · rw [e, e']
    exact h.schedule .seekEnd fun now => by rw [h.delays now]

theorem Twin.onStepSeek (h : Twin timed exact hs ht s t) (same : t.command = s.command) :
    Twin timed exact hs ht (onStepSeek s) (onStepSeek t) := by
  have moved := h.update State.moveOneTrack (fun _ _ _ _ => by rw [same]; rfl) ⟨rfl, rfl, rfl, rfl, rfl, rfl⟩
  exact moved.startMotion same

theorem Twin.onSeekEnd (h : Twin timed exact hs ht s t) (same : t.command = s.command) :
    Twin timed exact hs ht (onSeekEnd s) (onSeekEnd t) := by
  obtain ⟨c, n, q, d, host, pending, time, command⟩ := h
  obtain rfl : c = s.command := same
  rw [onSeekEnd_eq, onSeekEnd_eq]
  exact .intro (s := { arrived s with
      rotationCursor := arrivalCursor s
      status := arrivalStatus s.status (decide (s.command.toNat < 0x10)) (s.physicalTrack == 0)
        (s.flagV && verifyFails s (arrivalTrack s))
      irq := true
      drq := false
      xferDir := .none
      cmdType := .idle
      phase := .idle
      slots := Slots.empty }) s.command n Slots.empty d host rfl (fun now => ⟨(time now).1, rfl, (time now).2.2⟩) (.inl rfl)

/-! ### The searches -/

/-- R215: nothing found. -/
theorem typeIISearch_none {s : State}
    (nothing : s.unit.search s.physicalTrack s.side s.rotationCursor s.sector s.flagC s.flagS = none) :
    typeIISearch s = s.abort [.recordNotFound] := by
  rcases typeIISearch_cases s with ⟨-, e⟩ | ⟨g, p, id, -, found, -⟩
  · exact e
  · rw [nothing] at found
    cases found

/-- R215: found. -/
theorem typeIISearch_some {s : State} {g : Zone} {p : Nat} {id : SectorId}
    (hg : s.unit.geometry s.physicalTrack = some g)
    (found : s.unit.search s.physicalTrack s.side s.rotationCursor s.sector s.flagC s.flagS = some (p, id)) :
    typeIISearch s = openSector { s with rotationCursor := (p + 1) % g.sectors } := by
  unfold typeIISearch
  rw [hg]
  dsimp only
  rw [found]

/-- The operands of a Type II search are the same for twins (R96). -/
theorem Twin.compare (h : Twin timed exact hs ht s t) (apt : exact ∨ s.cmdType.isTypeII = true) :
    t.flagC = s.flagC ∧ t.flagS = s.flagS := by
  obtain ⟨c, n, q, d, host, pending, time, command⟩ := h
  rcases command with same | ⟨differ, same, tagged⟩
  · rw [same]
    exact ⟨rfl, rfl⟩
  · have typeII := apt.resolve_left differ
    have notIdle : s.cmdType ≠ .idle := by
      intro idle
      rw [idle] at typeII
      cases typeII
    exact compare_of_significant same (by rw [← tagged notIdle, typeII])

theorem Twin.openSector (h : Twin timed exact hs ht s t) :
    Twin timed exact hs ht (openSector s) (openSector t) := by
  cases read : s.cmdType.isRead with
  | true =>
    have opened := (h.update (fun s => { s with phase := .transferring, draws := s.draws + 1 }) (fun _ _ _ _ => rfl)
      ⟨rfl, rfl, rfl, rfl, rfl, rfl⟩).openRead s.physicalTrack s.side s.sector
        (s.unit.locate s.physicalTrack s.side s.sector.toNat)
        (s.unit.readBytes s.draws (s.unit.locate s.physicalTrack s.side s.sector.toNat)
          (s.unit.sectorSize s.physicalTrack)) true
    cases h
    rw [openSector_read read, openSector_read (by exact read)]
    exact opened
  | false =>
    have opened := (h.update (fun s => { s with phase := .transferring }) (fun _ _ _ _ => rfl)
      ⟨rfl, rfl, rfl, rfl, rfl, rfl⟩).openWrite s.physicalTrack s.side s.sector
        (s.unit.locate s.physicalTrack s.side s.sector.toNat) (s.unit.sectorSize s.physicalTrack) true
    cases h
    rw [openSector_write read, openSector_write (by exact read)]
    exact opened

/-- The cursor passes the match. -/
theorem Twin.cursor (h : Twin timed exact hs ht s t) (cursor : Nat) :
    Twin timed exact hs ht { s with rotationCursor := cursor } { t with rotationCursor := cursor } :=
  h.update (fun s => { s with rotationCursor := cursor }) (fun _ _ _ _ => rfl) ⟨rfl, rfl, rfl, rfl, rfl, rfl⟩

theorem Twin.typeIISearch (h : Twin timed exact hs ht s t) (apt : exact ∨ s.cmdType.isTypeII = true) :
    Twin timed exact hs ht (typeIISearch s) (typeIISearch t) := by
  obtain ⟨compare, side⟩ := h.compare apt
  have geometry : t.unit.geometry t.physicalTrack = s.unit.geometry s.physicalTrack := by cases h; rfl
  have search : t.unit.search t.physicalTrack t.side t.rotationCursor t.sector t.flagC t.flagS =
      s.unit.search s.physicalTrack s.side s.rotationCursor s.sector s.flagC s.flagS := by
    rw [compare, side]
    cases h
    rfl
  rcases typeIISearch_cases s with ⟨nothing, e⟩ | ⟨g, p, id, hg, found, e⟩
  · rw [e, typeIISearch_none (search.trans nothing)]
    exact h.abort _
  · rw [e, typeIISearch_some (geometry.trans hg) (search.trans found)]
    exact (h.cursor _).openSector

theorem Twin.readAddressSearch (h : Twin timed exact hs ht s t) :
    Twin timed exact hs ht (readAddressSearch s) (readAddressSearch t) := by
  have place : t.unit = s.unit ∧ t.physicalTrack = s.physicalTrack ∧ t.side = s.side ∧
      t.rotationCursor = s.rotationCursor := by
    cases h
    exact ⟨rfl, rfl, rfl, rfl⟩
  obtain ⟨unit, track, side, cursor⟩ := place
  cases hg : s.unit.geometry s.physicalTrack with
  | none =>
    rw [readAddressSearch_unreadable hg, readAddressSearch_unreadable (by rw [unit, track, hg])]
    exact h.abort _
  | some g =>
    have passed := h.cursor ((s.rotationCursor % g.sectors + 1) % g.sectors)
    cases hid : s.unit.sectorId s.physicalTrack s.side (s.rotationCursor % g.sectors) with
    | none =>
      rw [readAddressSearch_no_id hg hid,
        readAddressSearch_no_id (by rw [unit, track, hg]) (by rw [unit, track, side, cursor, hid]), cursor]
      exact passed.abort _
    | some id =>
      have opened := (passed.update (fun s => { s with phase := .transferring }) (fun _ _ _ _ => rfl)
        ⟨rfl, rfl, rfl, rfl, rfl, rfl⟩).openRead s.physicalTrack s.side id.sec 0 (idRecord id) false
      rw [readAddressSearch_id hg hid,
        readAddressSearch_id (by rw [unit, track, hg]) (by rw [unit, track, side, cursor, hid])]
      cases h
      exact opened

theorem readTrackSearch_unreadable {s : State} (hg : s.unit.geometry s.physicalTrack = none) :
    readTrackSearch s = s.abort [.recordNotFound] := by
  rw [Machine.readTrackSearch, hg]

theorem readTrackSearch_readable {s : State} {g : Zone} (hg : s.unit.geometry s.physicalTrack = some g) :
    readTrackSearch s = openRead s.physicalTrack s.side 0 0
      (trackImage s.unit s.config.rtLayout s.draws s.physicalTrack s.side g) false
      { s with rotationCursor := 0, phase := .readingTrack, draws := s.draws + g.sectors } := by
  rw [Machine.readTrackSearch, hg]

theorem Twin.readTrackSearch (h : Twin timed exact hs ht s t) :
    Twin timed exact hs ht (readTrackSearch s) (readTrackSearch t) := by
  have geometry : t.unit.geometry t.physicalTrack = s.unit.geometry s.physicalTrack := by cases h; rfl
  cases hg : s.unit.geometry s.physicalTrack with
  | none =>
    rw [readTrackSearch_unreadable hg, readTrackSearch_unreadable (geometry.trans hg)]
    exact h.abort _
  | some g =>
    have opened := (h.update (fun s => { s with
        rotationCursor := 0, phase := .readingTrack, draws := s.draws + g.sectors }) (fun _ _ _ _ => rfl)
      ⟨rfl, rfl, rfl, rfl, rfl, rfl⟩).openRead s.physicalTrack s.side 0 0
        (trackImage s.unit s.config.rtLayout s.draws s.physicalTrack s.side g) false
    rw [readTrackSearch_readable hg, readTrackSearch_readable (geometry.trans hg)]
    cases h
    exact opened

theorem Twin.writeTrackSearch (h : Twin timed exact hs ht s t) :
    Twin timed exact hs ht (writeTrackSearch s) (writeTrackSearch t) := by
  have geometry : t.unit.geometry t.physicalTrack = s.unit.geometry s.physicalTrack := by cases h; rfl
  cases hg : s.unit.geometry s.physicalTrack with
  | none =>
    rw [writeTrackSearch_unreadable hg, writeTrackSearch_unreadable (geometry.trans hg)]
    exact h.abort _
  | some g =>
    have opened := (h.update (fun s => { s with phase := .writingTrack }) (fun _ _ _ _ => rfl)
      ⟨rfl, rfl, rfl, rfl, rfl, rfl⟩).openWrite s.physicalTrack s.side 0 (s.unit.locate s.physicalTrack s.side 0)
        (s.writeTrackLength s.physicalTrack) false
    rw [writeTrackSearch_readable hg, writeTrackSearch_readable (geometry.trans hg)]
    cases h
    exact opened

theorem Twin.onSearch (h : Twin timed exact hs ht s t) : Twin timed exact hs ht (onSearch s) (onSearch t) := by
  unfold Machine.onSearch
  rw [h.cmdType]
  cases tag : s.cmdType with
  | readSector => exact h.typeIISearch (.inr (by rw [tag]; rfl))
  | readMulti => exact h.typeIISearch (.inr (by rw [tag]; rfl))
  | writeSector => exact h.typeIISearch (.inr (by rw [tag]; rfl))
  | writeMulti => exact h.typeIISearch (.inr (by rw [tag]; rfl))
  | readAddress => exact h.readAddressSearch
  | readTrack => exact h.readTrackSearch
  | writeTrack => exact h.writeTrackSearch
  | idle => exact h
  | seek => exact h
  | forceInterrupt => exact h

/-! ### The continuation, the re-arm timer, and the table of handlers -/

/-- SECTOR + 1 and the draw of the count (R218). -/
def sectorCounted (s : State) : State := { s with sector := s.sector + 1, draws := s.draws + 1 }

theorem onMulti1_eq (s : State) : onMulti1 s =
    if s.sectorCount ≤ (s.sector + 1).toNat then (sectorCounted s).complete
    else (sectorCounted s).schedule .multi2 s.config.delays.multi2 := rfl

theorem Twin.onMulti1 (h : Twin timed exact hs ht s t) : Twin timed exact hs ht (onMulti1 s) (onMulti1 t) := by
  have counted := h.update sectorCounted (fun _ _ _ _ => rfl) ⟨rfl, rfl, rfl, rfl, rfl, rfl⟩
  have count : t.sectorCount = s.sectorCount ∧ t.sector = s.sector := by cases h; exact ⟨rfl, rfl⟩
  rw [onMulti1_eq, onMulti1_eq, count.1, count.2]
  split
  · exact counted.complete
  · exact counted.schedule .multi2 fun now => by rw [h.delays now]

theorem Twin.onFiRearm (h : Twin timed exact hs ht s t) : Twin timed exact hs ht (onFiRearm s) (onFiRearm t) := by
  have condition : fiCondition t.intLatch t.fiReadyRef t.ready = fiCondition s.intLatch s.fiReadyRef s.ready := by
    cases h
    rfl
  unfold Machine.onFiRearm
  by_cases met : fiCondition s.intLatch s.fiReadyRef s.ready = true
  · rw [if_pos met, if_pos (condition.trans met)]
    exact h.update (fun s => { s with irq := true }) (fun _ _ _ _ => rfl) ⟨rfl, rfl, rfl, rfl, rfl, rfl⟩
  · rw [if_neg met, if_neg (mt condition.symm.trans met)]
    exact (h.update (fun s => { s with fiReadyRef := s.ready }) (fun _ _ _ _ => rfl)
      ⟨rfl, rfl, rfl, rfl, rfl, rfl⟩).schedule .fiRearm fun now => by rw [h.delays now]

/-- Every handler, for the event its phase awaits, or for any event while COMMAND is the same. -/
theorem Twin.handler (h : Twin timed exact hs ht s t) {k : EventKind}
    (apt : exact ∨ (s.cmdType.fits s.phase = true ∧ s.phase.awaits k = true)) :
    Twin timed exact hs ht (handler k s) (handler k t) := by
  have seek (hk : k = .stepSeek ∨ k = .seekEnd) : t.command = s.command :=
    h.command_eq (apt.imp_right fun ⟨fits, awaited⟩ => .inl (by
      rw [seeking_of_awaits hk awaited] at fits
      exact seek_of_fits fits))
  cases k with
  | stepSeek => exact h.onStepSeek (seek (.inl rfl))
  | seekEnd => exact h.onSeekEnd (seek (.inr rfl))
  | search => exact h.onSearch
  | fiRearm => exact h.onFiRearm
  | multi1 => exact h.onMulti1
  | multi2 =>
    refine h.typeIISearch (apt.imp_right fun ⟨fits, awaited⟩ => ?_)
    rw [searching_of_awaits (.inr rfl) awaited] at fits
    rcases multi_of_fits_searching fits with e | e <;> rw [e] <;> rfl
  | dataLoss => exact h.abort _

/-! ### The firing (R335, R336) -/

/-- The event leaves its slot, and the clock takes its time. -/
theorem Twin.taken (h : Twin timed exact hs ht s t) (k : EventKind) {n n' : Nat} (now : timed → n' = n) :
    Twin timed exact hs ht { s with now := n, slots := s.slots.put k none }
      { t with now := n', slots := t.slots.put k none } := by
  obtain ⟨c, m, q, d, host, pending, time, command⟩ := h
  refine .intro (s := { s with now := n, slots := s.slots.put k none }) c n' (q.put k none) d host ?_ ?_ command
  · rw [timeless_put, timeless_put, pending]
  · intro same
    obtain ⟨-, hq, hd⟩ := time same
    exact ⟨now same, by rw [hq], hd⟩

/-- Twins fire the same event, at times that agree where their clocks do. -/
theorem Twin.fire (h : Twin timed exact hs ht s t) {k : EventKind} {x x' : Slot} (next : s.slots.next = some (k, x))
    (next' : t.slots.next = some (k, x')) (owner : x'.owner = x.owner) (now : timed → x' = x)
    (apt : exact ∨ (s.cmdType.fits s.phase = true ∧ s.phase.awaits k = true)) :
    Twin timed exact hs ht (Machine.fire s) (Machine.fire t) := by
  have taken := h.taken k (n := x.fireTime) (n' := x'.fireTime) fun same => by rw [now same]
  by_cases live : x.owner = s.cmdType
  · rw [fire_live next live, fire_live next' (by rw [owner, live, h.cmdType])]
    exact taken.handler apt
  · rw [fire_stale next live, fire_stale next' (by rwa [owner, h.cmdType])]
    exact taken

/-- Slots that are one event when time is taken out are one event. -/
theorem eq_only_of_timeless {q : Slots} {k : EventKind} {x : Slot} (h : q.timeless = (Slots.only k x).timeless) :
    ∃ x', q = Slots.only k x' ∧ x'.owner = x.owner := by
  have holds (k' : EventKind) : (q.get k').map Slot.timeless = ((Slots.only k x).get k').map Slot.timeless := by
    rw [← get_timeless, ← get_timeless, h]
  have there := holds k
  rw [get_only, if_pos rfl] at there
  obtain ⟨x', hx', same⟩ := Option.map_eq_some_iff.mp there
  refine ⟨x', slots_ext fun k' => ?_, show x'.timeless.owner = x.timeless.owner from congrArg Slot.owner same⟩
  rw [get_only]
  by_cases hk : k' = k
  · rw [if_pos hk, hk, hx']
  · have empty := holds k'
    rw [get_only, if_neg hk] at empty
    rw [if_neg hk, Option.map_eq_none_iff.mp empty]

theorem eq_empty_of_timeless {q : Slots} (h : q.timeless = Slots.empty) : q = Slots.empty := by
  refine slots_ext fun k => ?_
  have empty : (q.get k).map Slot.timeless = none := by rw [← get_timeless, h, get_empty]
  rw [get_empty, Option.map_eq_none_iff.mp empty]

/-- Twins of a state that a run reaches: the one event pending is the same but for its time. -/
theorem Twin.fire_of_inv (h : Twin timed exact hs ht s t) (inv : s.Inv) : Twin timed exact hs ht (Machine.fire s) (Machine.fire t) := by
  have slots : t.slots.timeless = s.slots.timeless ∧ (timed → t.slots = s.slots) := by
    obtain ⟨c, n, q, d, host, pending, time, command⟩ := h
    exact ⟨pending, fun now => (time now).2.1⟩
  rcases inv.pending with ⟨empty, -⟩ | ⟨k, x, pending, awaited, -, -⟩
  · have empty' : t.slots = Slots.empty := eq_empty_of_timeless (by rw [slots.1, empty]; rfl)
    rw [fire_none (by rw [empty, next_empty]), fire_none (by rw [empty', next_empty])]
    exact h
  · obtain ⟨x', pending', owner⟩ := eq_only_of_timeless (slots.1.trans (congrArg Slots.timeless pending))
    have next := next_only k x
    have next' := next_only k x'
    rw [← pending] at next
    rw [← pending'] at next'
    refine h.fire next next' owner (fun now => ?_) (.inr ⟨inv.phase, awaited⟩)
    rw [slots.2 now, next] at next'
    exact (congrArg Prod.snd (Option.some.inj next')).symm

end Sys2Proof.Proofs
end

section
/-! PROOFS. Twins under the port accesses, the commands and the other stimuli. -/

namespace Sys2Proof.Proofs

open Sys2Proof.Machine Sys2Proof.Laws

variable {timed exact : Prop} {hs ht : List Stimulus} {s t : State}

/-! ### The ports -/

theorem writeTrackPort_eq (v : Byte) (s : State) :
    writeTrackPort v s = { s with track := if s.pokeRejected = true then s.track else v } := by
  unfold writeTrackPort
  split <;> rfl

theorem writeSectorPort_eq (v : Byte) (s : State) :
    writeSectorPort v s = { s with sector := if s.pokeRejected = true then s.sector else v } := by
  unfold writeSectorPort
  split <;> rfl

theorem Twin.writeDataPort (h : Twin timed exact hs ht s t) (v : Byte) :
    Twin timed exact hs ht (writeDataPort v s) (writeDataPort v t) := by
  have conditions : (t.cmdType.isWrite && t.drq) = (s.cmdType.isWrite && s.drq) ∧
      (t.busy && t.cmdType.isTransfer) = (s.busy && s.cmdType.isTransfer) := by
    cases h
    exact ⟨rfl, rfl⟩
  unfold Machine.writeDataPort
  by_cases feeds : (s.cmdType.isWrite && s.drq) = true
  · rw [if_pos feeds, if_pos (conditions.1.trans feeds)]
    exact h.transferWriteByte v
  · rw [if_neg feeds, if_neg (mt conditions.1.symm.trans feeds)]
    by_cases discards : (s.busy && s.cmdType.isTransfer) = true
    · rw [if_pos discards, if_pos (conditions.2.trans discards)]
      exact h
    · rw [if_neg discards, if_neg (mt conditions.2.symm.trans discards)]
      exact h.update (fun s => { s with data := v }) (fun _ _ _ _ => rfl) ⟨rfl, rfl, rfl, rfl, rfl, rfl⟩

/-- What a read answers, where twins answer the same. -/
theorem Twin.answer (h : Twin timed exact hs ht s t) (v : Byte) :
    Twin timed exact hs ht { s with readValue := some v } { t with readValue := some v } :=
  h.update (fun s => { s with readValue := some v }) (fun _ _ _ _ => rfl) ⟨rfl, rfl, rfl, rfl, rfl, rfl⟩

theorem Twin.readDataPort (h : Twin timed exact hs ht s t) :
    Twin timed exact hs ht (readDataPort s) (readDataPort t) := by
  have shared : (t.cmdType.isRead && t.drq) = (s.cmdType.isRead && s.drq) ∧ t.nextByte = s.nextByte ∧
      t.data = s.data := by
    cases h
    exact ⟨rfl, rfl, rfl⟩
  obtain ⟨condition, nextByte, data⟩ := shared
  unfold Machine.readDataPort
  by_cases drains : (s.cmdType.isRead && s.drq) = true
  · rw [if_pos drains, if_pos (condition.trans drains), nextByte]
    exact h.transferReadByte.answer s.nextByte
  · rw [if_neg drains, if_neg (mt condition.symm.trans drains)]
    exact h.update (fun s => { s with readValue := some s.data }) (fun _ _ _ _ => rfl) ⟨rfl, rfl, rfl, rfl, rfl, rfl⟩

theorem Twin.readPort (h : Twin timed exact hs ht s t) (p : Port) :
    Twin timed exact hs ht (readPort p s) (readPort p t) := by
  cases p with
  | control =>
    refine h.update readStatus (fun _ _ _ _ => ?_) ?_
    · rw [readStatus_eq, readStatus_eq, recompute_eq, recompute_eq]
      rfl
    · rw [readStatus_eq]
      exact ⟨rfl, rfl, rfl, rfl, rfl, rfl⟩
  | track => exact h.update readTrackPort (fun _ _ _ _ => rfl) ⟨rfl, rfl, rfl, rfl, rfl, rfl⟩
  | sector => exact h.update readSectorPort (fun _ _ _ _ => rfl) ⟨rfl, rfl, rfl, rfl, rfl, rfl⟩
  | data => exact h.readDataPort

/-! ### The commands -/

/-- What a command write leaves (R150): the state itself where the command is ignored, else the command's effect. -/
def executed (i : Instr) (s : State) : State :=
  if (s.busy && !isForceInterrupt i) = true then s else body i (s.accept i)

theorem exec_eq_executed (i : Instr) (s : State) : exec i s = .next (executed i s) := by
  rw [exec_eq, acceptCommand, executed]
  split <;> rfl

/-- Two commands that differ at most in ignored bits, and do not where COMMAND is exact. -/
structure SameCommand (exact : Prop) (i i' : Instr) : Prop where
  significant : significant (encode i') = significant (encode i)
  same : exact → i' = i

theorem SameCommand.tagOf {i i' : Instr} (h : SameCommand exact i i') : tagOf i' = tagOf i := by
  have tags := tagOf_eq_of_significant h.significant
  rwa [decode_encode, decode_encode] at tags

theorem SameCommand.eq_of_not_transfer {i i' : Instr} (h : SameCommand exact i i')
    (notTransfer : (Machine.tagOf i).isTransfer = false) : i' = i := by
  have bytes : encode i' = encode i :=
    eq_of_significant_of_not_transfer h.significant (by rw [decode_encode, notTransfer])
  rw [← decode_encode i', bytes, decode_encode]

theorem isForceInterrupt_eq_tagOf (i : Instr) : isForceInterrupt i = decide (tagOf i = .forceInterrupt) := by
  cases i <;> rfl

/-- A Type II/III command past the common dispatch runs its checks (R151, R153). -/
theorem body_of_transfer {i : Instr} (transfer : (tagOf i).isTransfer = true) (s : State) :
    body i (s.accept i) = (transferAccepted s (encode i) (tagOf i)).prologue := by
  cases i with
  | readSector sd e c x0 => exact dispatchTransfer_accept s _ _
  | readMultiple sd e c x0 => exact dispatchTransfer_accept s _ _
  | writeSector sd e c a0 => exact dispatchTransfer_accept s _ _
  | writeMultiple sd e c a0 => exact dispatchTransfer_accept s _ _
  | readAddress x3 e x1 x0 => exact dispatchTransfer_accept s _ _
  | readTrack x3 e x1 x0 => exact dispatchTransfer_accept s _ _
  | writeTrack x3 e x1 x0 => exact dispatchTransfer_accept s _ _
  | _ => cases transfer

theorem Twin.transferAccepted (h : Twin timed exact hs ht s t) {i i' : Instr} (command : SameCommand exact i i') :
    Twin timed exact hs ht (transferAccepted s (encode i) (tagOf i)) (transferAccepted t (encode i') (tagOf i')) := by
  rw [command.tagOf]
  obtain ⟨c, n, q, d, host, pending, time, -⟩ := h
  refine .intro (s := Proofs.transferAccepted s (encode i) (tagOf i)) (encode i') n Slots.empty d host rfl
    (fun same => ⟨(time same).1, rfl, (time same).2.2⟩) ?_
  by_cases bytes : exact
  · exact .inl (by rw [command.same bytes]; rfl)
  · refine .inr ⟨bytes, command.significant, fun _ => ?_⟩
    show tagOf i = tagOf (decode (encode i))
    rw [decode_encode]

theorem Twin.awaitSearch (h : Twin timed exact hs ht s t) : Twin timed exact hs ht s.awaitSearch t.awaitSearch := by
  have settle : t.settlePending = s.settlePending := by cases h; rfl
  exact (h.update (fun s => { s with headEngaged := true, settlePending := false, phase := .settling })
    (fun _ _ _ _ => rfl) ⟨rfl, rfl, rfl, rfl, rfl, rfl⟩).schedule .search fun now => by rw [settle, h.delays now]

theorem Twin.prologue (h : Twin timed exact hs ht s t) : Twin timed exact hs ht s.prologue t.prologue := by
  have isProtected : (t.cmdType.isWrite && t.unit.writeProtected) = (s.cmdType.isWrite && s.unit.writeProtected) := by
    cases h
    rfl
  have differs : (t.cmdType.isTypeII && t.flagC && (t.flagS != t.side)) =
      (s.cmdType.isTypeII && s.flagC && (s.flagS != s.side)) := by
    have side : t.side = s.side := by cases h; rfl
    rw [h.cmdType, side]
    cases typeII : s.cmdType.isTypeII with
    | false => rfl
    | true => rw [(h.compare (.inr typeII)).1, (h.compare (.inr typeII)).2]
  unfold State.prologue
  by_cases notReady : s.ready = false
  · rw [if_pos notReady, if_pos (h.ready.trans notReady)]
    exact h.abort _
  rw [if_neg notReady, if_neg (mt h.ready.symm.trans notReady)]
  by_cases write : (s.cmdType.isWrite && s.unit.writeProtected) = true
  · rw [if_pos write, if_pos (isProtected.trans write)]
    exact h.abort _
  rw [if_neg write, if_neg (mt isProtected.symm.trans write)]
  by_cases compare : (s.cmdType.isTypeII && s.flagC && (s.flagS != s.side)) = true
  · rw [if_pos compare, if_pos (differs.trans compare)]
    exact h.abort _
  · rw [if_neg compare, if_neg (mt differs.symm.trans compare)]
    exact h.awaitSearch

theorem Twin.typeIAccepted (h : Twin timed exact hs ht s t) (b : Byte) :
    Twin timed exact hs ht (typeIAccepted s b) (typeIAccepted t b) := by
  obtain ⟨c, n, q, d, host, pending, time, -⟩ := h
  exact .intro (s := Proofs.typeIAccepted s b) b n Slots.empty d host rfl
    (fun same => ⟨(time same).1, rfl, (time same).2.2⟩) (.inl rfl)

/-- Twins that take the same Type I command, whose own part writes target and direction. -/
theorem Twin.dispatchTypeI (h : Twin timed exact hs ht s t) (i : Instr) (part : State → State)
    (shared : ∀ c h n q d u, part (disguised c h n q d u) = disguised c h n q d (part u))
    (keeps : ∀ u, (part u).host = u.host ∧ (part u).slots = u.slots ∧ (part u).now = u.now ∧
      (part u).config = u.config ∧ (part u).command = u.command ∧ (part u).cmdType = u.cmdType) :
    Twin timed exact hs ht ((s.accept i).dispatchTypeI part) ((t.accept i).dispatchTypeI part) := by
  rw [dispatchTypeI_accept, dispatchTypeI_accept]
  have own := (h.typeIAccepted (encode i)).update part (fun _ _ _ _ => shared _ _ _ _ _ _) (keeps _)
  have bytes (u : State) : (part (Proofs.typeIAccepted u (encode i))).command = encode i := by
    obtain ⟨-, -, -, -, command, -⟩ := keeps (Proofs.typeIAccepted u (encode i))
    exact command
  exact own.startMotion (by rw [bytes, bytes])

theorem Twin.stepFamily (h : Twin timed exact hs ht s t) (i : Instr) (d : Direction) :
    Twin timed exact hs ht ((s.accept i).dispatchTypeI (stepPart d)) ((t.accept i).dispatchTypeI (stepPart d)) :=
  h.dispatchTypeI i (stepPart d) (fun _ _ _ _ _ _ => rfl) fun _ => ⟨rfl, rfl, rfl, rfl, rfl, rfl⟩

theorem Twin.fiSignal (h : Twin timed exact hs ht s t) : Twin timed exact hs ht s.fiSignal t.fiSignal := by
  have latch : t.intLatch = s.intLatch := by cases h; rfl
  unfold State.fiSignal
  by_cases now : s.intLatch.getLsbD 3 = true
  · have now' : t.intLatch.getLsbD 3 = true := by rwa [latch]
    rw [if_pos now, if_pos now']
    exact h.update (fun s => { s with irq := true }) (fun _ _ _ _ => rfl) ⟨rfl, rfl, rfl, rfl, rfl, rfl⟩
  have now' : ¬ t.intLatch.getLsbD 3 = true := by rwa [latch]
  rw [if_neg now, if_neg now']
  by_cases armed : s.intLatch ≠ 0
  · have armed' : t.intLatch ≠ 0 := by rwa [latch]
    rw [if_pos armed, if_pos armed']
    exact (h.update (fun s => { s with fiReadyRef := s.ready }) (fun _ _ _ _ => rfl)
      ⟨rfl, rfl, rfl, rfl, rfl, rfl⟩).schedule .fiRearm fun same => by rw [h.delays same]
  · have armed' : ¬ t.intLatch ≠ 0 := by rwa [latch]
    rw [if_neg armed, if_neg armed']
    exact h

theorem Twin.interrupted (h : Twin timed exact hs ht s t) (cond latch : BitVec 4) :
    Twin timed exact hs ht (interrupted s cond latch) (interrupted t cond latch) := by
  obtain ⟨c, n, q, d, host, pending, time, -⟩ := h
  exact .intro (s := Proofs.interrupted s cond latch) (encode (.forceInterrupt cond)) n Slots.empty d host rfl
    (fun same => ⟨(time same).1, rfl, (time same).2.2⟩) (.inl rfl)

/-- Twins that take the same Type I or Type IV command. -/
theorem Twin.body_of_not_transfer (h : Twin timed exact hs ht s t) (i : Instr)
    (notTransfer : (tagOf i).isTransfer = false) :
    Twin timed exact hs ht (body i (s.accept i)) (body i (t.accept i)) := by
  have shared : t.stepVector = s.stepVector ∧ t.cmdType = s.cmdType ∧ t.intLatch = s.intLatch := by
    cases h
    exact ⟨rfl, rfl, rfl⟩
  obtain ⟨vector, tag, latch⟩ := shared
  cases i with
  | restore hd v r =>
    exact h.dispatchTypeI _ restorePart (fun _ _ _ _ _ _ => rfl) fun _ => ⟨rfl, rfl, rfl, rfl, rfl, rfl⟩
  | seek hd v r =>
    exact h.dispatchTypeI _ seekPart (fun _ _ _ _ _ _ => rfl) fun _ => ⟨rfl, rfl, rfl, rfl, rfl, rfl⟩
  | step u hd v r =>
    show Twin timed exact hs ht ((s.accept _).dispatchTypeI (stepPart s.stepVector))
      ((t.accept _).dispatchTypeI (stepPart t.stepVector))
    rw [vector]
    exact h.stepFamily _ s.stepVector
  | stepIn u hd v r => exact h.stepFamily _ .inward
  | stepOut u hd v r => exact h.stepFamily _ .outward
  | forceInterrupt cond =>
    show Twin timed exact hs ht (s.accept _).forceInterrupt (t.accept _).forceInterrupt
    rw [forceInterrupt_accept, forceInterrupt_accept, tag, latch]
    exact (h.interrupted cond _).fiSignal
  | _ => cases notTransfer

theorem Twin.executed (h : Twin timed exact hs ht s t) {i i' : Instr} (command : SameCommand exact i i') :
    Twin timed exact hs ht (executed i s) (executed i' t) := by
  have gate : (t.busy && !isForceInterrupt i') = (s.busy && !isForceInterrupt i) := by
    rw [isForceInterrupt_eq_tagOf, isForceInterrupt_eq_tagOf, command.tagOf]
    cases h
    rfl
  unfold Proofs.executed
  by_cases ignored : (s.busy && !isForceInterrupt i) = true
  · rw [if_pos ignored, if_pos (gate.trans ignored)]
    exact h
  rw [if_neg ignored, if_neg (mt gate.symm.trans ignored)]
  cases transfer : (tagOf i).isTransfer with
  | true =>
    rw [body_of_transfer transfer, body_of_transfer (by rw [command.tagOf, transfer])]
    exact (h.transferAccepted command).prologue
  | false =>
    rw [command.eq_of_not_transfer transfer]
    exact h.body_of_not_transfer i transfer

/-! ### The other stimuli -/

theorem Twin.resetBlock (h : Twin timed exact hs ht s t) : Twin timed exact hs ht s.resetBlock t.resetBlock := by
  obtain ⟨c, n, q, d, host, pending, time, -⟩ := h
  exact .intro (s := s.resetBlock) 0x00 0 Slots.empty d host rfl (fun same => ⟨rfl, rfl, (time same).2.2⟩) (.inl rfl)

/-- Two stimuli that differ at most in the ignored bits of a command byte, and do not where COMMAND is exact. -/
structure SameStimulus (exact : Prop) (x x' : Stimulus) : Prop where
  significant : x'.significant = x.significant
  same : exact → x' = x

/-- Only a command byte has ignored bits. -/
theorem significant_stimulus (x : Stimulus) :
    (∃ v, x = .write .control v) ∨ ((∀ v, x ≠ .write .control v) ∧ x.significant = x) := by
  cases x with
  | write p v =>
    cases p with
    | control => exact .inl ⟨v, rfl⟩
    | _ => exact .inr ⟨nofun, rfl⟩
  | _ => exact .inr ⟨nofun, rfl⟩

/-- Stimuli that agree but for ignored bits are two command bytes that do, or the same. -/
theorem SameStimulus.cases {x x' : Stimulus} (h : SameStimulus exact x x') :
    (∃ v v', x = .write .control v ∧ x' = .write .control v' ∧ SameCommand exact (decode v) (decode v')) ∨ x' = x := by
  obtain ⟨agree, same⟩ := h
  rcases significant_stimulus x with ⟨v, rfl⟩ | ⟨other, plain⟩ <;>
    rcases significant_stimulus x' with ⟨v', rfl⟩ | ⟨other', plain'⟩
  · refine .inl ⟨v, v', rfl, rfl, ?_, fun bytes => ?_⟩
    · rw [encodeOfDecodeIsTheByte, encodeOfDecodeIsTheByte]
      exact (Stimulus.write.inj agree).2
    · rw [(Stimulus.write.inj (same bytes)).2]
  · exact absurd (plain'.symm.trans agree) (other' _)
  · exact absurd (plain.symm.trans agree.symm) (other _)
  · exact .inr (by rw [← plain', agree, plain])

/-- Twins, or the same fault. -/
inductive TwinOutcome (timed exact : Prop) (hs ht : List Stimulus) :
    Host.Outcome State Fault Refusal → Host.Outcome State Fault Refusal → Prop
  | next {s t : State} (h : Twin timed exact hs ht s t) : TwinOutcome timed exact hs ht (.next s) (.next t)
  | fault (f : Fault) : TwinOutcome timed exact hs ht (.fault f) (.fault f)

/-- A port write of the same byte, or of a command byte that differs in ignored bits. -/
theorem Twin.takeStimulus (h : Twin timed exact hs ht s t) {x x' : Stimulus} (same : SameStimulus exact x x')
    (fires : Twin timed exact hs ht (Machine.fire s) (Machine.fire t)) :
    TwinOutcome timed exact hs ht (takeStimulus x s) (takeStimulus x' t) := by
  rcases same.cases with ⟨v, v', rfl, rfl, command⟩ | rfl
  · show TwinOutcome timed exact hs ht (exec (decode v) s) (exec (decode v') t)
    rw [exec_eq_executed, exec_eq_executed]
    exact .next (h.executed command)
  have drives : t.media.length = s.media.length := by cases h; rfl
  cases x' with
  | write p v =>
    cases p with
    | control =>
      show TwinOutcome timed exact hs ht (exec (decode v) s) (exec (decode v) t)
      rw [exec_eq_executed, exec_eq_executed]
      exact .next (h.executed ⟨rfl, fun _ => rfl⟩)
    | track =>
      refine .next (h.update (writeTrackPort v) (fun _ _ _ _ => ?_) ?_)
      · rw [writeTrackPort_eq, writeTrackPort_eq]
        rfl
      · rw [writeTrackPort_eq]
        exact ⟨rfl, rfl, rfl, rfl, rfl, rfl⟩
    | sector =>
      refine .next (h.update (writeSectorPort v) (fun _ _ _ _ => ?_) ?_)
      · rw [writeSectorPort_eq, writeSectorPort_eq]
        rfl
      · rw [writeSectorPort_eq]
        exact ⟨rfl, rfl, rfl, rfl, rfl, rfl⟩
    | data => exact .next (h.writeDataPort v)
  | read p => exact .next (h.readPort p)
  | fire => exact .next fires
  | reset => exact .next h.resetBlock
  | set drive side motor =>
    unfold Machine.takeStimulus
    dsimp only
    rw [drives]
    split
    · exact .next (h.update (setInputs drive side motor) (fun _ _ _ _ => rfl) ⟨rfl, rfl, rfl, rfl, rfl, rfl⟩)
    · exact .fault _
  | media drive unit =>
    unfold Machine.takeStimulus
    dsimp only
    rw [drives]
    split
    · exact .fault _
    · split
      · exact .next (h.update (fun s => { s with media := s.media.set drive unit }) (fun _ _ _ _ => rfl)
          ⟨rfl, rfl, rfl, rfl, rfl, rfl⟩)
      · exact .fault _

theorem Twin.host (h : Twin timed exact hs ht s t) (hs' ht' : List Stimulus) :
    Twin timed exact hs' ht' { s with host := hs' } { t with host := ht' } := by
  obtain ⟨c, n, q, d, -, pending, time, command⟩ := h
  exact .intro (s := { s with host := hs' }) c n q d rfl pending time command

/-- A step of a state that a run reaches, and the step of its twin. -/
theorem Twin.step (h : Twin timed exact s.host t.host s t) (inv : s.Inv)
    (hosts : List.Forall₂ (SameStimulus exact) s.host t.host) :
    ∃ rs rt, List.Forall₂ (SameStimulus exact) rs rt ∧ TwinOutcome timed exact rs rt (step s) (step t) := by
  generalize hs : s.host = hosts_s at hosts h
  generalize ht : t.host = hosts_t at hosts h
  cases hosts with
  | nil =>
    rw [step_nil hs, step_nil ht]
    exact ⟨[], [], .nil, .next (h.fire_of_inv inv)⟩
  | @cons x x' rs rt same rest =>
    rw [step_cons hs, step_cons ht]
    have taken := h.host rs rt
    exact ⟨rs, rt, rest, taken.takeStimulus same (taken.fire_of_inv (inv_host inv rs))⟩

/-! ### The two comparisons of the spec -/

/-- Twins that differ only in time are the same without it. -/
theorem Twin.timeless_eq {hosts : List Stimulus} (h : Twin False True hosts hosts s t) : s.timeless = t.timeless := by
  obtain ⟨c, n, q, d, host, pending, -, command⟩ := h
  obtain rfl : c = s.command := command.resolve_right fun ⟨differ, _⟩ => differ trivial
  show ({ s with now := 0, slots := s.slots.timeless, config := _ } : State) = { s with
    host := hosts, now := 0, slots := q.timeless, config := _ }
  rw [pending, ← host]
  rfl

/-- A disguise hides the time. -/
theorem disguised_timeless (c : Byte) (host : List Stimulus) (n : Nat) (q : Slots) (d : Delays) (s : State) :
    disguised c host n q d s.timeless = disguised c host n q d s := by
  unfold disguised State.timeless
  rfl

theorem twin_of_timeless_eq (h : s.timeless = t.timeless) : Twin False True s.host t.host s t := by
  have same : disguised t.command t.host t.now t.slots t.config.delays s = t := by
    rw [← disguised_timeless, h, disguised_timeless]
    rfl
  have fields : t.timeless.command = s.timeless.command ∧ t.timeless.slots = s.timeless.slots := by
    rw [h]
    exact ⟨rfl, rfl⟩
  have twin : Twin False True s.host t.host s (disguised t.command t.host t.now t.slots t.config.delays s) :=
    .intro _ _ _ _ rfl fields.2 nofun (.inl fields.1)
  rwa [same] at twin

/-- The outcomes of two steps whose next states are twins: the same kind of outcome, the next states as the comparison
`alike` of the spec asks. -/
theorem TwinOutcome.outcomes {o o' : Host.Outcome State Fault Refusal} (h : TwinOutcome timed exact hs ht o o')
    {alike : State → State → Prop} (compare : ∀ s t, Twin timed exact hs ht s t → alike s t) :
    (∀ s, o = .next s → ∃ t, o' = .next t ∧ alike s t) ∧ ∀ f, o = .fault f → o' = .fault f := by
  cases h with
  | next twin =>
    refine ⟨fun s e => ?_, fun f e => by cases e⟩
    cases e
    exact ⟨_, rfl, compare _ _ twin⟩
  | fault f => exact ⟨fun s e => (by cases e), fun f' e => e⟩

/-- Settles O59: the two states are twins with the same bytes and stimuli (`twin_of_timeless_eq`), so their next states
are (`Twin.step`). -/
theorem noOutcomeDependsOnTheDelays : Obligations.NoOutcomeDependsOnTheDelays := by
  intro s t inv _ h
  have host : t.timeless.host = s.timeless.host := by rw [h]
  have hosts : List.Forall₂ (SameStimulus True) s.host t.host := by
    rw [show t.host = s.host from host]
    exact List.forall₂_same.mpr fun _ _ => ⟨rfl, fun _ => rfl⟩
  obtain ⟨rs, rt, rest, outcome⟩ := (twin_of_timeless_eq h).step inv hosts
  obtain rfl : rs = rt := by
    have equal : List.Forall₂ Eq rs rt := rest.imp fun _ _ same => (same.same trivial).symm
    rwa [List.forall₂_eq_eq_eq] at equal
  exact outcome.outcomes fun _ _ twin => twin.timeless_eq

/-- Twins that differ only in ignored bits are the same without them. -/
theorem Twin.significantBits_eq (h : Twin True False hs ht s t)
    (hosts : ht.map Stimulus.significant = hs.map Stimulus.significant) : s.significantBits = t.significantBits := by
  obtain ⟨c, n, q, d, host, -, time, command⟩ := h
  obtain ⟨rfl, rfl, rfl⟩ := time trivial
  have bits : significant c = significant s.command := by
    rcases command with same | ⟨-, same, -⟩
    · rw [same]
    · exact same
  show ({ s with command := significant s.command, host := s.host.map Stimulus.significant } : State) =
    { s with command := significant c, host := ht.map Stimulus.significant }
  rw [bits, hosts, host]

/-- A disguise hides COMMAND and the stimuli to come. -/
theorem disguised_significantBits (c : Byte) (host : List Stimulus) (n : Nat) (q : Slots) (d : Delays) (s : State) :
    disguised c host n q d s.significantBits = disguised c host n q d s := by
  unfold disguised State.significantBits
  rfl

theorem twin_of_significantBits_eq (h : s.significantBits = t.significantBits) (tagged : Tagged s) :
    Twin True False s.host t.host s t := by
  have same : disguised t.command t.host t.now t.slots t.config.delays s = t := by
    rw [← disguised_significantBits, h, disguised_significantBits]
    rfl
  have fields : t.significantBits.now = s.significantBits.now ∧ t.significantBits.slots = s.significantBits.slots ∧
      t.significantBits.config.delays = s.significantBits.config.delays ∧
      t.significantBits.command = s.significantBits.command := by
    rw [h]
    exact ⟨rfl, rfl, rfl, rfl⟩
  obtain ⟨now, slots, delays, command⟩ := fields
  have twin : Twin True False s.host t.host s (disguised t.command t.host t.now t.slots t.config.delays s) :=
    .intro _ _ _ _ rfl (congrArg Slots.timeless slots) (fun _ => ⟨now, slots, delays⟩)
      (.inr ⟨not_false, command, tagged⟩)
  rwa [same] at twin

theorem map_significant_eq_iff {l l' : List Stimulus} :
    List.Forall₂ (SameStimulus False) l l' ↔ l'.map Stimulus.significant = l.map Stimulus.significant := by
  rw [← List.forall₂_eq_eq_eq, List.forall₂_map_left_iff, List.forall₂_map_right_iff]
  constructor
  · exact fun h => h.flip.imp fun _ _ same => same.significant
  · exact fun h => h.flip.imp fun _ _ same => ⟨same, False.elim⟩

/-- Settles O58: the two states are twins with the same clock, events and delays (`twin_of_significantBits_eq`), so their
next states are (`Twin.step`). -/
theorem ignoredBitsAreNeverLookedAt : Obligations.IgnoredBitsAreNeverLookedAt := by
  intro s t inv _ h
  have host : t.significantBits.host = s.significantBits.host := by rw [h]
  obtain ⟨rs, rt, rest, outcome⟩ := (twin_of_significantBits_eq h inv.tag).step inv (map_significant_eq_iff.mpr host)
  exact outcome.outcomes fun _ _ twin => twin.significantBits_eq (map_significant_eq_iff.mp rest)

/-- Twins that differ only in the stimuli to come. -/
theorem Twin.eq_with_host (h : Twin True True hs ht s t) : s = { s with host := hs } ∧ t = { s with host := ht } := by
  obtain ⟨c, n, q, d, host, -, time, command⟩ := h
  obtain ⟨rfl, rfl, rfl⟩ := time trivial
  obtain rfl : c = s.command := command.resolve_right fun ⟨differ, _⟩ => differ trivial
  rw [← host]
  exact ⟨rfl, rfl⟩

/-- Settles O60: states that differ only in the stimuli to come fire the same event (`Twin.fire`). -/
theorem emptyQueueFiresTheSameEvent : Obligations.EmptyQueueFiresTheSameEvent := by
  intro s rest
  have twin : Twin True True rest [] { s with host := rest } { s with host := [] } :=
    .intro (s := { s with host := rest }) s.command s.now s.slots s.config.delays rfl rfl (fun _ => ⟨rfl, rfl, rfl⟩)
      (.inl rfl)
  have fired : Twin True True rest [] (fire { s with host := rest }) (fire { s with host := [] }) := by
    cases next : s.slots.next with
    | none =>
      rw [fire_none (by exact next), fire_none (by exact next)]
      exact twin
    | some kx => exact twin.fire (by exact next) (by exact next) rfl (fun _ => rfl) (.inl trivial)
  obtain ⟨stimulus, timer⟩ := fired.eq_with_host
  refine ⟨fire { s with host := rest }, ?_, ?_⟩
  · rw [← stimulus]
    exact step_cons (s := { s with host := .fire :: rest }) rfl
  · rw [← timer]
    exact step_nil (s := { s with host := [] }) rfl

end Sys2Proof.Proofs
end

section
/-! PROOFS. The searches of the Type II commands, the continuation, and READ_TRACK (spec/43_type2.md R215, R218, R219,
spec/44_type3.md R245). -/

namespace Sys2Proof.Proofs

open Sys2Proof.Machine Sys2Proof.Laws

/-! ### The search events (R154, R215, R219) -/

/-- What the handler of event `k` sees: the firing taken from the queue, the event out of its slot at its time. -/
def firingTaken (s : State) (rest : List Stimulus) (k : EventKind) (t : Nat) : State :=
  { s with host := rest, now := t, slots := s.slots.put k none }

/-- The Type II tags as R215 lists them. -/
theorem isTypeII_iff (c : CmdType) : c.isTypeII = true ↔
    c = .readSector ∨ c = .readMulti ∨ c = .writeSector ∨ c = .writeMulti := by
  cases c <;> decide

/-- Both search events of a Type II command run `type2_search()`. -/
theorem handler_typeII {s : State} {k : EventKind} (event : k = .search ∨ k = .multi2)
    (typeII : s.cmdType.isTypeII = true) : handler k s = typeIISearch s := by
  rcases event with rfl | rfl
  · rw [handler, onSearch]
    rcases (isTypeII_iff _).mp typeII with tag | tag | tag | tag <;> rw [tag]
  · rfl

theorem step_typeIISearch {s : State} {rest : List Stimulus} {k : EventKind} {t : Nat}
    (hhost : s.host = .fire :: rest) (event : k = .search ∨ k = .multi2)
    (hnext : s.slots.next = some (k, ⟨t, s.cmdType⟩)) (typeII : s.cmdType.isTypeII = true) :
    step s = .next (typeIISearch (firingTaken s rest k t)) := by
  rw [step_fire hhost hnext, handler_typeII event (by exact typeII)]
  rfl

/-- A search event that finds its sector opens the record with the cursor past the match. -/
theorem step_openSector {s : State} {rest : List Stimulus} {k : EventKind} {t p : Nat} {g : Zone} {id : SectorId}
    (hhost : s.host = .fire :: rest) (event : k = .search ∨ k = .multi2)
    (hnext : s.slots.next = some (k, ⟨t, s.cmdType⟩)) (typeII : s.cmdType.isTypeII = true)
    (hg : s.unit.geometry s.physicalTrack = some g)
    (found : s.unit.search s.physicalTrack s.side s.rotationCursor s.sector (s.command.getLsbD 1)
      (s.command.getLsbD 3) = some (p, id)) :
    step s = .next (openSector { firingTaken s rest k t with rotationCursor := (p + 1) % g.sectors }) := by
  rw [step_typeIISearch hhost event hnext typeII, typeIISearch_some (by exact hg) (by exact found)]

/-- Settles O21: the search fails (`typeIISearch_none`) and aborts with RECNFND. -/
theorem failedSearchEndsWithRecordNotFound : Obligations.FailedSearchEndsWithRecordNotFound := by
  intro s rest k t hhost event hnext tag nothing
  rw [step_typeIISearch hhost event hnext ((isTypeII_iff _).mpr tag), typeIISearch_none (by exact nothing),
    abort_recordNotFound]
  rfl

theorem readBytes_length (u : MediaUnit) (draw off n : Nat) : (u.readBytes draw off n).length = n := by
  simp [MediaUnit.readBytes]

/-- Settles O19: the record's bytes are not empty, so `openRead_cons` gives the session; their number is the sector
size. -/
theorem sectorSearchOpensAReadSession : Obligations.SectorSearchOpensAReadSession := by
  intro s rest k t g p id b bs hhost event hnext tag hg found off bytes
  have typeII : s.cmdType.isTypeII = true := by rcases tag with e | e <;> rw [e] <;> rfl
  have read : s.cmdType.isRead = true := by rcases tag with e | e <;> rw [e] <;> rfl
  have length : (b :: bs).length = g.size := by rw [← bytes, readBytes_length]
  have record : s.unit.readBytes s.draws off (s.unit.sectorSize s.physicalTrack) = b :: bs := by
    rw [sectorSize_eq hg, bytes]
  rw [step_openSector hhost event hnext typeII hg found, openSector_read (by exact read)]
  show Host.Outcome.next (openRead _ _ _ _ (s.unit.readBytes s.draws off (s.unit.sectorSize s.physicalTrack)) _ _) = _
  rw [record, openRead_cons, length]
  rfl

/-- Settles O20: the record is not empty, so `openWrite_pos` gives the session. -/
theorem sectorSearchOpensAWriteSession : Obligations.SectorSearchOpensAWriteSession := by
  intro s rest k t g p id hhost event hnext tag hg positive found
  have typeII : s.cmdType.isTypeII = true := by rcases tag with e | e <;> rw [e] <;> rfl
  have write : s.cmdType.isRead = false := by rcases tag with e | e <;> rw [e] <;> rfl
  rw [step_openSector hhost event hnext typeII hg found, openSector_write (by exact write)]
  show Host.Outcome.next (openWrite _ _ _ _ (s.unit.sectorSize s.physicalTrack) _ _) = _
  rw [sectorSize_eq hg, openWrite_pos (h := positive)]
  rfl

/-! ### The continuation (R218) -/

theorem sectorCount_eq {s : State} {g : Zone} (hg : s.unit.geometry s.physicalTrack = some g) :
    s.sectorCount = g.sectors := by
  rw [State.sectorCount, hg]

/-- Settles O23: `onMulti1_eq` with the sector count of the track. -/
theorem continuationIncrementsSector : Obligations.ContinuationIncrementsSector := by
  intro s rest t g hhost hnext hg sector s' slots
  have next : s.sector + 1 = sector := by
    unfold sector
    rw [BitVec.ofNat_add, BitVec.ofNat_toNat, BitVec.setWidth_eq]
    rfl
  have count : (firingTaken s rest .multi1 t).sectorCount = g.sectors := sectorCount_eq hg
  rw [step_fire hhost hnext, handler]
  show Host.Outcome.next (onMulti1 (firingTaken s rest .multi1 t)) = _
  rw [onMulti1_eq, count]
  show Host.Outcome.next (if g.sectors ≤ (s.sector + 1).toNat then _ else _) = _
  rw [← next]
  by_cases last : g.sectors ≤ (s.sector + 1).toNat
  · rw [if_pos last, if_pos last]
    rfl
  · rw [if_neg last, if_neg last]
    rfl

/-! ### READ_TRACK (R245) -/

theorem onSearch_readTrack {s : State} (tag : s.cmdType = .readTrack) : onSearch s = readTrackSearch s := by
  rw [onSearch, tag]

/-- Settles O32: the image of the statement is `trackImage`, written out; as it is not empty `openRead_cons` gives the
session. -/
theorem readTrackServesTheTrackImage : Obligations.ReadTrackServesTheTrackImage := by
  intro s rest t hhost hnext tag
  rw [step_search hhost hnext, onSearch_readTrack (by exact tag)]
  refine ⟨fun unreadable => ?_, fun g b bs hg => ?_⟩
  · rw [readTrackSearch_unreadable (by exact unreadable), abort_recordNotFound]
    rfl
  · intro l gap zeros sum sectorPart image bytes
    have served : trackImage s.unit s.config.rtLayout s.draws s.physicalTrack s.side g = image := by
      have parts : imageAt s.unit l s.draws s.physicalTrack s.side g.size = sectorPart := by
        funext p
        unfold imageAt sectorPart
        cases s.unit.sectorId s.physicalTrack s.side p with
        | none => rfl
        | some id => simp only [imageSector, idRecord, List.append_assoc]; rfl
      rw [trackImage, parts]
      rfl
    rw [readTrackSearch_readable (by exact hg)]
    show Host.Outcome.next (openRead _ _ _ _ (trackImage s.unit s.config.rtLayout s.draws s.physicalTrack s.side g) _ _) = _
    rw [served, bytes, openRead_cons]
    rfl

end Sys2Proof.Proofs
end

section
/-! PROOFS. The Data port within a record and outside a session (spec/40_bus_interface.md R136, R137, spec/46_transfer.md
R293, R294). -/

namespace Sys2Proof.Proofs

open Sys2Proof.Machine Sys2Proof.Laws

/-- The tags whose session a Data write feeds, as R136 lists them. -/
theorem isWrite_iff (c : CmdType) : c.isWrite = true ↔ c = .writeSector ∨ c = .writeMulti ∨ c = .writeTrack := by
  cases c <;> decide

/-- R136: in a write session the Data port takes the next byte. -/
theorem step_writeData {s : State} {rest : List Stimulus} {v : Byte} (hhost : s.host = .write .data v :: rest)
    (write : s.cmdType.isWrite = true) (hdrq : s.drq = true) :
    step s = .next (transferWriteByte v { s with host := rest }) := by
  have feeding : (s.cmdType.isWrite && s.drq) = true := by rw [write, hdrq, Bool.and_self]
  rw [step_cons hhost, takeStimulus, writePort]
  exact congrArg _ (if_pos feeding)

/-- Settles O24: the Data port serves the byte (`step_readData`), which is not the last (`transferReadByte_more`). -/
theorem dataReadAdvancesTheStream : Obligations.DataReadAdvancesTheStream := by
  intro s rest b next hhost hdrq tag hb more hnext
  rw [step_readData hhost ((isRead_iff _).mpr tag) hdrq, nextByte_eq hb,
    transferReadByte_more (by exact hb) (by exact hnext) (by exact more)]

/-- Settles O26: the Data port takes the byte (`step_writeData`), which is not the last (`transferWriteByte_more`). -/
theorem dataWriteCollectsTheByte : Obligations.DataWriteCollectsTheByte := by
  intro s rest v hhost hdrq tag more
  rw [step_writeData hhost ((isWrite_iff _).mpr tag) hdrq, transferWriteByte_more v (by exact more)]

/-- Settles O39: the conditions of the statement are those the Data port tests. -/
theorem dataPortOutsideASession : Obligations.DataPortOutsideASession := by
  intro s rest v
  dsimp only
  rw [← isRead_iff, ← isWrite_iff, ← Bool.or_eq_true, ← Bool.and_eq_true, ← Bool.and_eq_true, ← Bool.and_eq_true]
  refine ⟨fun hhost notFeeding => ?_, fun hhost notDraining => ?_⟩
  · have port : step s = .next (if (s.busy && s.cmdType.isTransfer) = true then { s with host := rest }
        else { s with host := rest, data := v }) := by
      rw [step_cons hhost, takeStimulus, writePort]
      exact congrArg _ (if_neg notFeeding)
    rw [port]
    exact ⟨fun discarded => congrArg _ (if_pos discarded), fun free => congrArg _ (if_neg free)⟩
  · rw [step_cons hhost, takeStimulus, readPort]
    exact congrArg _ (if_neg notDraining)

end Sys2Proof.Proofs
end

section
/-! PROOFS. The commits of the write commands (spec/43_type2.md R217, spec/44_type3.md R249, spec/20_memory.md R64 to
R66). -/

namespace Sys2Proof.Proofs

open Sys2Proof.Machine Sys2Proof.Laws

/-! ### The store (R64) -/

theorem writeFails_iff (u : MediaUnit) (off n : Nat) :
    u.writeFails off n = true ↔ u.storeFails = true ∨ u.storeSize < off + n := by
  rw [MediaUnit.writeFails, Bool.or_eq_true, decide_eq_true_eq]

theorem writeFails_eq_false {u : MediaUnit} {off n : Nat} (takes : u.storeFails = false) (within : off + n ≤ u.storeSize) :
    u.writeFails off n = false := by
  rw [Bool.eq_false_iff, ne_eq, writeFails_iff, takes]
  exact fun refused => refused.elim nofun (Nat.not_lt.mpr within)

theorem writeBytes_of_ok {u : MediaUnit} {off : Nat} {bytes : List Byte} (draw : Nat)
    (ok : u.writeFails off bytes.length = false) :
    u.writeBytes draw off bytes = ({ u with store := u.store.writeRange off bytes }, true) := by
  rw [MediaUnit.writeBytes, ok]
  rfl

theorem writeBytes_of_fails {u : MediaUnit} {off : Nat} {bytes : List Byte} (draw : Nat)
    (fails : u.writeFails off bytes.length = true) :
    u.writeBytes draw off bytes =
      ({ u with store := u.store.writeRange off (u.freeRange draw off bytes.length) }, false) := by
  rw [MediaUnit.writeBytes, fails]
  rfl

theorem freeRange_length_le (u : MediaUnit) (draw off n : Nat) : (u.freeRange draw off n).length ≤ n := by
  simp [MediaUnit.freeRange]

theorem store_wf {u : MediaUnit} (h : u.wf = true) : Memory.wf u.store := by
  obtain ⟨-, -, -, -, store, -⟩ := (MediaUnit.wf_iff u).mp h
  exact store

/-- 93 U3 with the model's choice: a failed write changes no byte outside its range. -/
theorem read_freeRange_outside {u : MediaUnit} (h : u.wf = true) (draw : Nat) {off n a : Nat}
    (outside : ¬ (off ≤ a ∧ a < off + n)) :
    Memory.read (u.store.writeRange off (u.freeRange draw off n)) a = Memory.read u.store a := by
  have shorter := freeRange_length_le u draw off n
  rw [Memory.read_writeRange (store_wf h), if_neg (by omega)]

/-! ### The metadata of a record (R66, R217) -/

/-- The CRC and the deleted mark recorded for a record (R217). -/
def recorded (u : MediaUnit) (t : Nat) (side : Bool) (sec : Byte) (crc : Word16) (mark : Bool) : MediaUnit :=
  (u.writeStoredCrc t side sec crc).markDeleted t side sec mark

/-- Only metadata changes. -/
theorem recorded_eq (u : MediaUnit) (t : Nat) (side : Bool) (sec : Byte) (crc : Word16) (mark : Bool) :
    recorded u t side sec crc mark = { u with records := (recorded u t side sec crc mark).records } := by
  unfold recorded MediaUnit.writeStoredCrc
  split <;> rfl

theorem record_writeStoredCrc {u : MediaUnit} (h : u.wf = true) (t : Nat) (side : Bool) (sec : Byte) (crc : Word16) :
    (u.writeStoredCrc t side sec crc).record t side sec =
      { u.record t side sec with
        crc := if u.keepsCrc = true then some crc else (u.record t side sec).crc } := by
  unfold MediaUnit.writeStoredCrc
  split
  · rw [record_setRecord h, if_pos rfl]
  · rfl

theorem record_writeStoredCrc_other {u : MediaUnit} (h : u.wf = true) {t t' : Nat} {side side' : Bool}
    {sec sec' : Byte} (crc : Word16) (other : (t', side', sec') ≠ (t, side, sec)) :
    (u.writeStoredCrc t side sec crc).record t' side' sec' = u.record t' side' sec' := by
  unfold MediaUnit.writeStoredCrc
  split
  · rw [record_setRecord h, if_neg other]
  · rfl

theorem record_recorded {u : MediaUnit} (h : u.wf = true) (t : Nat) (side : Bool) (sec : Byte) (crc : Word16)
    (mark : Bool) : (recorded u t side sec crc mark).record t side sec =
      ⟨if u.keepsCrc = true then some crc else (u.record t side sec).crc, mark⟩ := by
  rw [recorded, MediaUnit.markDeleted, record_setRecord (writeStoredCrc_wf h), if_pos rfl, record_writeStoredCrc h]

theorem record_recorded_other {u : MediaUnit} (h : u.wf = true) {t t' : Nat} {side side' : Bool} {sec sec' : Byte}
    (crc : Word16) (mark : Bool) (other : (t', side', sec') ≠ (t, side, sec)) :
    (recorded u t side sec crc mark).record t' side' sec' = u.record t' side' sec' := by
  rw [recorded, MediaUnit.markDeleted, record_setRecord (writeStoredCrc_wf h), if_neg other,
    record_writeStoredCrc_other h crc other]

/-! ### The ends of a write record -/

/-- The selected unit after the record of an ended write session is committed (R217). -/
def sectorCommitted (s : State) : MediaUnit :=
  recorded { s.unit with store := s.unit.store.writeRange s.recOffset s.xferBuf } s.recTrack s.recSide s.recSector
    s.crcAcc s.flagA0

theorem sectorCommitted_eq (s : State) : sectorCommitted s =
    { s.unit with
      store := s.unit.store.writeRange s.recOffset s.xferBuf
      records := (sectorCommitted s).records } :=
  recorded_eq _ _ _ _ _ _

theorem sectorCommitted_store (s : State) :
    (sectorCommitted s).store = s.unit.store.writeRange s.recOffset s.xferBuf := by
  rw [sectorCommitted_eq]

/-- The state with unit `u` in the selected drive, after `n` draws. -/
def withUnit (s : State) (u : MediaUnit) (n : Nat) : State :=
  { s with media := s.media.set s.driveSelect u, draws := s.draws + n }

theorem unit_withUnit {s : State} {u : MediaUnit} {n : Nat} (hd : s.driveSelect < s.media.length) :
    (withUnit s u n).unit = u :=
  unit_setUnit hd

/-- Every other drive keeps its unit. -/
theorem media_set_other (s : State) (u : MediaUnit) {d : Nat} (other : d ≠ s.driveSelect) :
    (s.media.set s.driveSelect u)[d]? = s.media[d]? :=
  List.getElem?_set_ne other.symm

/-- R295: the tags whose record ends by R217. -/
theorem endOfRecord_writeRecord {s : State} (tag : s.cmdType = .writeSector ∨ s.cmdType = .writeMulti) :
    endOfRecord s = endWriteRecord s := by
  rw [endOfRecord]
  rcases tag with tag | tag <;> rw [tag]

theorem endOfRecord_writeTrack {s : State} (tag : s.cmdType = .writeTrack) : endOfRecord s = endWriteTrack s := by
  rw [endOfRecord, tag]

/-- R217: the record is committed, and the command goes on or ends. -/
theorem endWriteRecord_of_ok {s : State} (hd : s.driveSelect < s.media.length)
    (ok : s.unit.writeFails s.recOffset s.xferBuf.length = false) :
    endWriteRecord s =
      if s.cmdType = .writeMulti then
        State.schedule { withUnit (s.cancel .dataLoss) (sectorCommitted s) 1 with phase := .searching } .multi1
          s.config.delays.multi1
      else (withUnit (s.cancel .dataLoss) (sectorCommitted s) 1).complete := by
  have stored : ((s.cancel .dataLoss).memWrite s.recOffset s.xferBuf).1 =
      withUnit (s.cancel .dataLoss) { s.unit with store := s.unit.store.writeRange s.recOffset s.xferBuf } 1 := by
    rw [memWrite_fst, cancel_unit, writeBytes_of_ok _ ok]
    rfl
  have committed : ((s.cancel .dataLoss).memWrite s.recOffset s.xferBuf).1.recordMetadata =
      withUnit (s.cancel .dataLoss) (sectorCommitted s) 1 := by
    rw [stored, recordMetadata_eq, unit_withUnit (by exact hd)]
    unfold withUnit
    dsimp only
    rw [List.set_set]
    rfl
  rcases endWriteRecord_cases s with ⟨fails, -⟩ | ⟨-, e⟩
  · rw [ok] at fails
    cases fails
  · rw [e, committed]

/-- R217: the store refuses, and the command ends with WRITE-FAULT. -/
theorem endWriteRecord_of_fails {s : State} (fails : s.unit.writeFails s.recOffset s.xferBuf.length = true) :
    endWriteRecord s = (withUnit (s.cancel .dataLoss)
      (s.unit.writeBytes s.draws s.recOffset s.xferBuf).1 1).abort [.writeFault] := by
  rcases endWriteRecord_cases s with ⟨-, e⟩ | ⟨ok, -⟩
  · rw [e, memWrite_fst]
    rfl
  · rw [fails] at ok
    cases ok

/-- The selected unit after `make_track` for the record (R249). -/
def trackFormatted (s : State) : MediaUnit := s.unit.makeTrack s.draws s.recTrack s.recSide

/-- R249: `make_track` and the commit, and the command ends, with WRITE-FAULT where the store refuses. -/
theorem endWriteTrack_eq {s : State} (hd : s.driveSelect < s.media.length) :
    endWriteTrack s =
      if s.unit.writeFails s.recOffset s.xferBuf.length = true then
        (withUnit (s.cancel .dataLoss)
          ((trackFormatted s).writeBytes (s.draws + 1) s.recOffset s.xferBuf).1 2).abort [.writeFault]
      else (withUnit (s.cancel .dataLoss)
        ((trackFormatted s).writeBytes (s.draws + 1) s.recOffset s.xferBuf).1 2).complete := by
  have formatted : (s.cancel .dataLoss).formatTrack s.recTrack s.recSide =
      withUnit (s.cancel .dataLoss) (trackFormatted s) 1 := formatTrack_eq _ _ _
  have unit : (withUnit (s.cancel .dataLoss) (trackFormatted s) 1).unit = trackFormatted s := unit_withUnit (by exact hd)
  have answer : (trackFormatted s).writeFails s.recOffset s.xferBuf.length =
      s.unit.writeFails s.recOffset s.xferBuf.length := by
    unfold MediaUnit.writeFails trackFormatted
    rw [makeTrack_storeSize, makeTrack_eq]
  have written : ((withUnit (s.cancel .dataLoss) (trackFormatted s) 1).memWrite s.recOffset s.xferBuf).1 =
      withUnit (s.cancel .dataLoss) ((trackFormatted s).writeBytes (s.draws + 1) s.recOffset s.xferBuf).1 2 := by
    rw [memWrite_fst, unit]
    unfold withUnit
    dsimp only
    rw [List.set_set]
    rfl
  have ends : endWriteTrack s =
      if (((s.cancel .dataLoss).formatTrack s.recTrack s.recSide).memWrite s.recOffset s.xferBuf).2 = false then
        (((s.cancel .dataLoss).formatTrack s.recTrack s.recSide).memWrite s.recOffset s.xferBuf).1.abort [.writeFault]
      else (((s.cancel .dataLoss).formatTrack s.recTrack s.recSide).memWrite s.recOffset s.xferBuf).1.complete := rfl
  rw [ends, formatted, memWrite_snd, unit, answer, written]
  cases s.unit.writeFails s.recOffset s.xferBuf.length <;> rfl

/-! ### A Data write that brings the last byte (R136, R294) -/

/-- What the end of record sees: the last byte `v` collected, counted and fed to the CRC, DRQ down, the session closed
(R294). -/
def lastByteWritten (s : State) (rest : List Stimulus) (v : Byte) : State :=
  { s with
    host := rest
    data := v
    xferBuf := s.xferBuf ++ [v]
    xferPos := s.xferPos + 1
    crcAcc := if s.xferCrcOn = true then crcStep s.crcAcc v else s.crcAcc
    drq := false
    xferDir := .none }

theorem step_writeLastByte {s : State} {rest : List Stimulus} {v : Byte} (hhost : s.host = .write .data v :: rest)
    (hdrq : s.drq = true) (write : s.cmdType.isWrite = true) (hlast : s.xferPos + 1 = s.xferLen) :
    step s = .next (endOfRecord (lastByteWritten s rest v)) := by
  rw [step_writeData hhost write hdrq, transferWriteByte_last v (by exact hlast)]
  rfl

/-- Settles O27: the store takes the write, so the record is committed (`endWriteRecord_of_ok`): the bytes by
`read_writeRange`, the metadata by `record_recorded`. -/
theorem lastByteOfAWriteRecordCommits : Obligations.LastByteOfAWriteRecordCommits := by
  intro s rest v hhost hdrq tag hlast hd wf buf crc takes within
  have write : s.cmdType.isWrite = true := by rcases tag with e | e <;> rw [e] <;> rfl
  have ok : s.unit.writeFails s.recOffset buf.length = false := writeFails_eq_false takes within
  have stored : ({ s.unit with store := s.unit.store.writeRange s.recOffset buf } : MediaUnit).wf = true := by
    have written := writeBytes_wf (draw := s.draws) (off := s.recOffset) (bs := buf) wf
    rwa [writeBytes_of_ok _ ok] at written
  have ends : step s = .next (endWriteRecord (lastByteWritten s rest v)) := by
    rw [step_writeLastByte hhost hdrq write hlast, endOfRecord_writeRecord (by exact tag)]
  rw [endWriteRecord_of_ok (by exact hd) (by exact ok)] at ends
  let u := sectorCommitted (lastByteWritten s rest v)
  refine ⟨s.media.set s.driveSelect u, List.length_set, fun d other => media_set_other s u other, ⟨u, ?_, ?_, ?_, ?_, ?_⟩,
    fun single => ?_, fun multi => ?_⟩
  · exact List.getElem?_set_self hd
  · rw [show u.store = s.unit.store.writeRange s.recOffset buf from sectorCommitted_store _]
    exact sectorCommitted_eq _
  · intro a
    rw [show u.store = s.unit.store.writeRange s.recOffset buf from sectorCommitted_store _]
    exact Memory.read_writeRange (store_wf wf)
  · exact record_recorded stored _ _ _ _ _
  · exact fun t side sec other => record_recorded_other stored _ _ other
  · rw [ends, if_neg (by show ¬ s.cmdType = _; rw [single]; decide)]
    rfl
  · rw [ends, if_pos (by exact multi)]
    rfl

/-! ### WRITE_TRACK and the failed commits -/

theorem trackFormatted_eq (s : State) : trackFormatted s =
    { s.unit with
      store := if s.unit.formatInert = true then s.unit.store else freeImage s.draws s.unit.storeSize } :=
  makeTrack_eq _ _ _ _

theorem trackFormatted_wf {s : State} (h : s.unit.wf = true) : (trackFormatted s).wf = true := makeTrack_wf h

/-- `make_track` changes neither the size of the store nor whether it takes writes. -/
theorem trackFormatted_writeFails (s : State) (off n : Nat) :
    (trackFormatted s).writeFails off n = s.unit.writeFails off n := by
  unfold MediaUnit.writeFails trackFormatted
  rw [makeTrack_storeSize, makeTrack_eq]

/-- Settles O29: `make_track` and then the commit (`endWriteTrack_eq`), the bytes by `read_writeRange`. -/
theorem lastByteOfATrackImageCommits : Obligations.LastByteOfATrackImageCommits := by
  intro s rest v hhost hdrq tag hlast hd wf buf takes within
  have ok : (lastByteWritten s rest v).unit.writeFails (lastByteWritten s rest v).recOffset
      (lastByteWritten s rest v).xferBuf.length = false := writeFails_eq_false takes within
  have ends : step s = .next (endWriteTrack (lastByteWritten s rest v)) := by
    rw [step_writeLastByte hhost hdrq (by rw [tag]; rfl) hlast, endOfRecord_writeTrack (by exact tag)]
  rw [endWriteTrack_eq (by exact hd), ok, if_neg nofun,
    writeBytes_of_ok _ ((trackFormatted_writeFails _ _ _).trans ok)] at ends
  have read (a : Nat) := Memory.read_writeRange (bs := buf) (a := s.recOffset) (a' := a)
    (store_wf (trackFormatted_wf (s := lastByteWritten s rest v) wf))
  refine ⟨_, List.length_set, fun d other => media_set_other s _ other, ⟨_, List.getElem?_set_self hd, ?_, ?_, ?_⟩, ends⟩
  · rw [trackFormatted_eq]
    rfl
  · intro a inside
    exact (read a).trans (if_pos inside)
  · intro inert a outside
    refine (read a).trans ((if_neg outside).trans ?_)
    rw [trackFormatted_eq]
    show Memory.read (if s.unit.formatInert = true then _ else _) a = _
    rw [if_pos inert]
    rfl

/-- What a failed commit leaves of the selected unit `u` and its metadata, whatever `make_track` did before: the fault
keeps the metadata, and outside the range the store of `u`. -/
theorem writeBytes_of_fails_keeps {u : MediaUnit} (h : u.wf = true) {off : Nat} {bytes : List Byte} (draw : Nat)
    (fails : u.writeFails off bytes.length = true) :
    (u.writeBytes draw off bytes).1.records = u.records ∧
      ∀ a, ¬ (off ≤ a ∧ a < off + bytes.length) →
        (u.writeBytes draw off bytes).1.store.read a = u.store.read a := by
  rw [writeBytes_of_fails draw fails]
  exact ⟨rfl, fun a outside => read_freeRange_outside h draw outside⟩

/-- Settles O28: a failed commit is an abort with WRITE-FAULT over the unit that the failed write leaves. -/
theorem failedCommitEndsWithWriteFault : Obligations.FailedCommitEndsWithWriteFault := by
  intro s rest v hhost hdrq tag hlast hd wf buf refused
  let s' := lastByteWritten s rest v
  have fails : s'.unit.writeFails s'.recOffset s'.xferBuf.length = true := (writeFails_iff _ _ _).mpr refused
  have ends : step s = .next (endOfRecord s') := step_writeLastByte hhost hdrq ((isWrite_iff _).mpr tag) hlast
  suffices ∃ u n, endOfRecord s' = (withUnit (s'.cancel .dataLoss) u n).abort [.writeFault] ∧
      u.records = s.unit.records ∧ ((s.cmdType ≠ .writeTrack ∨ s.unit.formatInert = true) →
        ∀ a, ¬ (s.recOffset ≤ a ∧ a < s.recOffset + buf.length) → u.store.read a = s.unit.store.read a) by
    obtain ⟨u, n, e, records, store⟩ := this
    have unit : ((withUnit (s'.cancel .dataLoss) u n).abort [.writeFault]).unit = u :=
      unit_withUnit (n := n) (by exact hd)
    rw [← unit] at records store
    exact ⟨_, ends.trans (congrArg _ e), rfl, rfl, rfl, rfl, rfl, rfl, rfl, rfl, rfl,
      fun d other => media_set_other s u other, records, store⟩
  by_cases track : s.cmdType = .writeTrack
  · have formatted := trackFormatted_eq s'
    obtain ⟨records, store⟩ := writeBytes_of_fails_keeps (trackFormatted_wf (s := s') wf) (s'.draws + 1)
      ((trackFormatted_writeFails s' _ _).trans fails)
    refine ⟨_, 2, ?_, records.trans (by rw [formatted]; rfl), fun keeps a outside => (store a outside).trans ?_⟩
    · rw [endOfRecord_writeTrack (by exact track), endWriteTrack_eq (by exact hd), if_pos fails]
    · have inert : s'.unit.formatInert = true := keeps.resolve_left fun not => not track
      rw [formatted, if_pos inert]
      rfl
  · obtain ⟨records, store⟩ := writeBytes_of_fails_keeps (u := s'.unit) wf s'.draws fails
    refine ⟨_, 1, ?_, records, fun _ => store⟩
    have record : s.cmdType = .writeSector ∨ s.cmdType = .writeMulti := by
      rcases tag with e | e | e
      exacts [.inl e, .inr e, absurd e track]
    rw [endOfRecord_writeRecord (by exact record), endWriteRecord_of_fails fails]

end Sys2Proof.Proofs
end

section
/-! PROOFS. Records of length 0 (spec/46_transfer.md R291, R292, D19, D44). -/

namespace Sys2Proof.Proofs

open Sys2Proof.Machine Sys2Proof.Laws

/-- The record `openRead` and `openWrite` lay open, empty, with `side`, the track under the head, sector `sector` and
offset `off`: what the end of record then sees (R290). -/
def emptyOpened (s : State) (sector : Byte) (off : Nat) (crcOn : Bool) : State :=
  { s with
    recTrack := s.physicalTrack
    recSide := s.side
    recSector := sector
    recOffset := off
    xferBuf := []
    xferLen := 0
    xferPos := 0
    xferCrcOn := crcOn
    xferDir := .none
    crcAcc := 0xFFFF }

/-- What the end of record sees after a Type II search for a sector of 0 bytes that leaves the cursor at `cursor`. -/
def emptySector (s : State) (rest : List Stimulus) (k : EventKind) (t cursor n : Nat) : State :=
  emptyOpened { firingTaken s rest k t with rotationCursor := cursor, phase := .transferring, draws := s.draws + n }
    s.sector (s.unit.locate s.physicalTrack s.side s.sector.toNat) true

theorem openSector_read_empty {s : State} (read : s.cmdType.isRead = true)
    (size : s.unit.sectorSize s.physicalTrack = 0) : openSector s =
    endOfRecord (emptyOpened { s with phase := .transferring, draws := s.draws + 1 } s.sector
      (s.unit.locate s.physicalTrack s.side s.sector.toNat) true) := by
  rw [openSector_read read, size]
  exact openRead_nil _ _ _ _ _ _

theorem openSector_write_empty {s : State} (write : s.cmdType.isRead = false)
    (size : s.unit.sectorSize s.physicalTrack = 0) : openSector s =
    endOfRecord (emptyOpened { s with phase := .transferring } s.sector
      (s.unit.locate s.physicalTrack s.side s.sector.toNat) true) := by
  rw [openSector_write write, size]
  exact openWrite_zero _ _ _ _ _ _

section

variable {s : State} {rest : List Stimulus} {k : EventKind} {t p : Nat} {g : Zone} {id : SectorId}

/-- A read command that finds a sector of 0 bytes ends its record at once. -/
theorem step_emptyRead (hhost : s.host = .fire :: rest) (event : k = .search ∨ k = .multi2)
    (hnext : s.slots.next = some (k, ⟨t, s.cmdType⟩)) (tag : s.cmdType = .readSector ∨ s.cmdType = .readMulti)
    (hg : s.unit.geometry s.physicalTrack = some g) (size : g.size = 0)
    (found : s.unit.search s.physicalTrack s.side s.rotationCursor s.sector (s.command.getLsbD 1)
      (s.command.getLsbD 3) = some (p, id)) :
    step s = .next (endOfRecord (emptySector s rest k t ((p + 1) % g.sectors) 1)) := by
  have typeII : s.cmdType.isTypeII = true := by rcases tag with e | e <;> rw [e] <;> rfl
  have read : s.cmdType.isRead = true := by rcases tag with e | e <;> rw [e] <;> rfl
  rw [step_openSector hhost event hnext typeII hg found,
    openSector_read_empty (by exact read) ((sectorSize_eq (by exact hg)).trans size)]
  rfl

/-- A write command that finds a sector of 0 bytes ends its record at once. -/
theorem step_emptyWrite (hhost : s.host = .fire :: rest) (event : k = .search ∨ k = .multi2)
    (hnext : s.slots.next = some (k, ⟨t, s.cmdType⟩)) (tag : s.cmdType = .writeSector ∨ s.cmdType = .writeMulti)
    (hg : s.unit.geometry s.physicalTrack = some g) (size : g.size = 0)
    (found : s.unit.search s.physicalTrack s.side s.rotationCursor s.sector (s.command.getLsbD 1)
      (s.command.getLsbD 3) = some (p, id)) :
    step s = .next (endOfRecord (emptySector s rest k t ((p + 1) % g.sectors) 0)) := by
  have typeII : s.cmdType.isTypeII = true := by rcases tag with e | e <;> rw [e] <;> rfl
  have write : s.cmdType.isRead = false := by rcases tag with e | e <;> rw [e] <;> rfl
  rw [step_openSector hhost event hnext typeII hg found,
    openSector_write_empty (by exact write) ((sectorSize_eq (by exact hg)).trans size)]
  rfl

end

/-- A WRITE_TRACK of 0 bytes ends its record at once. -/
theorem step_emptyWriteTrack {s : State} {rest : List Stimulus} {t : Nat} {g : Zone} (hhost : s.host = .fire :: rest)
    (hnext : s.slots.next = some (.search, ⟨t, s.cmdType⟩)) (tag : s.cmdType = .writeTrack)
    (hg : s.unit.geometry s.physicalTrack = some g) (length : s.writeTrackLength s.physicalTrack = 0) :
    step s = .next (endOfRecord (emptyOpened { firingTaken s rest .search t with phase := .writingTrack } 0
      (s.unit.locate s.physicalTrack s.side 0) false)) := by
  have handled : onSearch (firingTaken s rest .search t) = writeTrackSearch (firingTaken s rest .search t) := by
    rw [onSearch, show (firingTaken s rest .search t).cmdType = .writeTrack from tag]
  have len : (firingTaken s rest .search t).writeTrackLength (firingTaken s rest .search t).physicalTrack = 0 := length
  rw [step_search hhost hnext]
  show Host.Outcome.next (onSearch (firingTaken s rest .search t)) = _
  rw [handled, writeTrackSearch_readable (by exact hg), len, openWrite_zero]
  rfl

/-- R292: whether the store refuses an empty write. -/
theorem writeFails_nil (u : MediaUnit) (off : Nat) :
    u.writeFails off ([] : List Byte).length = true ↔ u.storeFails = true ∨ u.storeSize < off :=
  writeFails_iff u off 0

/-- An empty write leaves the store as it is. -/
theorem writeRange_nil (u : MediaUnit) (off : Nat) : { u with store := u.store.writeRange off [] } = u := by
  simp [Memory.writeRange]

/-- Settles O22: the record is opened and ended in one step (`step_emptyRead`, `step_emptyWrite`,
`step_emptyWriteTrack`); the ends are those of any record, with no byte to move. -/
theorem emptyRecordEndsAtOnce : Obligations.EmptyRecordEndsAtOnce := by
  intro s rest k t g hhost hnext hg
  refine ⟨fun p id event size found => ?_, ?_⟩
  · intro off opened goesOn bad refused
    refine ⟨fun tag mismatch => ?_, fun tag fine => ?_, fun tag fine => ?_, fun tag refusal => ?_,
      fun tag taken hd wf => ?_⟩
    · rw [step_emptyRead hhost event hnext tag hg size found, endOfRecord_of_mismatch (by exact tag) (by exact mismatch)]
      rfl
    · rw [step_emptyRead hhost event hnext (.inl tag) hg size found,
        endOfRecord_readSector (by exact tag) (by exact fine)]
      rfl
    · rw [step_emptyRead hhost event hnext (.inr tag) hg size found,
        endOfRecord_readMulti (by exact tag) (by exact fine)]
      rfl
    · let s' := emptySector s rest k t ((p + 1) % g.sectors) 0
      have fails : s'.unit.writeFails s'.recOffset s'.xferBuf.length = true := (writeFails_nil _ _).mpr refusal
      have unit : (s'.unit.writeBytes s'.draws s'.recOffset s'.xferBuf).1 = s.unit :=
        congrArg Prod.fst (writeBytes_nil s.unit s.draws off)
      rw [step_emptyWrite hhost event hnext tag hg size found, endOfRecord_writeRecord (by exact tag),
        endWriteRecord_of_fails fails, unit]
      unfold withUnit
      rw [show (s'.cancel .dataLoss).media.set (s'.cancel .dataLoss).driveSelect s.unit = s.media from set_unit_self s]
      rfl
    · let s' := emptySector s rest k t ((p + 1) % g.sectors) 0
      have ok : s'.unit.writeFails s'.recOffset s'.xferBuf.length = false :=
        Bool.eq_false_iff.mpr (mt (writeFails_nil _ _).mp taken)
      have commits : step s = .next (endWriteRecord s') := by
        rw [step_emptyWrite hhost event hnext tag hg size found, endOfRecord_writeRecord (by exact tag)]
      rw [endWriteRecord_of_ok (by exact hd) ok] at commits
      have unit : sectorCommitted s' = recorded s.unit s.physicalTrack s.side s.sector 0xFFFF (s.command.getLsbD 0) :=
        congrArg (fun u => recorded u s.physicalTrack s.side s.sector 0xFFFF (s.command.getLsbD 0))
          (writeRange_nil s.unit off)
      refine ⟨s.media.set s.driveSelect (sectorCommitted s'), List.length_set,
        fun d other => media_set_other s _ other, ⟨sectorCommitted s', List.getElem?_set_self hd, ?_, ?_, ?_⟩,
        fun single => ?_, fun multi => ?_⟩
      · rw [unit]
        exact recorded_eq _ _ _ _ _ _
      · rw [unit]
        exact record_recorded wf _ _ _ _ _
      · intro t side sec other
        rw [unit]
        exact record_recorded_other wf _ _ other
      · rw [commits, if_neg (by show ¬ s.cmdType = _; rw [single]; decide)]
        rfl
      · rw [commits, if_pos (by exact multi)]
        rfl
  · rintro rfl tag length hd off
    let s' := emptyOpened { firingTaken s rest .search t with phase := .writingTrack } 0 off false
    have written : ((trackFormatted s').writeBytes (s'.draws + 1) s'.recOffset s'.xferBuf).1 = trackFormatted s' :=
      congrArg Prod.fst (writeBytes_nil _ _ _)
    have ends : step s = .next (endWriteTrack s') := by
      rw [step_emptyWriteTrack hhost hnext tag hg length, endOfRecord_writeTrack (by exact tag)]
    rw [endWriteTrack_eq (by exact hd), written] at ends
    refine ⟨s.media.set s.driveSelect (trackFormatted s'), List.length_set,
      fun d other => media_set_other s _ other,
      ⟨_, List.getElem?_set_self hd, by rw [trackFormatted_eq]; rfl⟩, fun inert => ?_, ?_⟩
    · have kept : trackFormatted s' = s.unit := by
        rw [trackFormatted_eq, if_pos (by exact inert)]
        rfl
      rw [kept, set_unit_self]
    · have refuses : s'.unit.writeFails s'.recOffset s'.xferBuf.length = true ↔
          s.unit.storeFails = true ∨ s.unit.storeSize < off := writeFails_nil _ _
      rw [ends]
      by_cases refusal : s.unit.storeFails = true ∨ s.unit.storeSize < off
      · rw [if_pos refusal, if_pos (refuses.mpr refusal)]
        rfl
      · rw [if_neg refusal, if_neg (mt refuses.mp refusal)]
        rfl

end Sys2Proof.Proofs
end

section
/-! PROOFS. The CRC (spec/47_crc16.md). -/

namespace Sys2Proof.Proofs

open Sys2Proof.Machine Sys2Proof.Laws

/-- A round loses nothing: only 0 goes to 0, since the polynomial is odd. -/
theorem crcRound_eq_zero {c : Word16} (h : crcRound c = 0) : c = 0 := by
  have bits (i : Nat) : (crcRound c).getLsbD i = false := by rw [h]; exact BitVec.getLsbD_zero
  cases top : c.getLsbD 15 with
  | true =>
    have odd := bits 0
    simp [crcRound, top] at odd
  | false =>
    have shift : crcRound c = c <<< 1 := if_neg (by rw [top]; decide)
    refine BitVec.eq_of_getLsbD_eq fun i hi => BitVec.getLsbD_zero.symm ▸ ?_
    by_cases last : i = 15
    · rw [last, top]
    · have shifted := bits (i + 1)
      rw [shift, BitVec.getLsbD_shiftLeft] at shifted
      simpa [show i + 1 < 16 by omega] using shifted

theorem crcRounds_eq_zero_iff (n : Nat) (c : Word16) : crcRounds n c = 0 ↔ c = 0 := by
  induction n generalizing c with
  | zero => exact Iff.rfl
  | succ n ih =>
    rw [crcRounds, ih]
    exact ⟨crcRound_eq_zero, fun h => by rw [h]; rfl⟩

/-- The bits of a word given by its two bytes. -/
theorem getLsbD_word (hi lo : Byte) (i : Nat) :
    BitVec.getLsbD (hi ++ lo : Word16) i = if i < 8 then lo.getLsbD i else hi.getLsbD (i - 8) :=
  BitVec.getLsbD_append

/-- Feeding the bytes of a word high byte first is 16 rounds on the register XOR the word. -/
theorem crcStep_crcStep (c : Word16) (hi lo : Byte) :
    crcStep (crcStep c hi) lo = crcRounds 8 (crcRounds 8 (c ^^^ (hi ++ lo))) := by
  have word : c ^^^ (hi.setWidth 16 <<< 8) ^^^ lo.setWidth 16 = c ^^^ (hi ++ lo) := by
    rw [BitVec.xor_assoc]
    congr 1
    refine BitVec.eq_of_getLsbD_eq fun i hi => ?_
    rw [BitVec.getLsbD_xor, BitVec.getLsbD_shiftLeft, BitVec.getLsbD_setWidth, BitVec.getLsbD_setWidth, getLsbD_word]
    by_cases low : i < 8
    · simp [low, hi]
    · simp [low, hi, show i - 8 < 16 by omega, BitVec.getLsbD_of_ge lo i (Nat.not_lt.mp low)]
  rw [crcStep, crcStep, ← crcRounds_low lo, ← crcRounds_xor, word]

/-- The residual property, for any two bytes after the sequence. -/
theorem crc16_append_word_eq_zero_iff (d : List Byte) (hi lo : Byte) : crc16 (d ++ [hi, lo]) = 0 ↔ hi ++ lo = crc16 d := by
  rw [crc16_append, List.foldl_cons, List.foldl_cons, List.foldl_nil, crcStep_crcStep, crcRounds_eq_zero_iff,
    crcRounds_eq_zero_iff]
  exact BitVec.xor_eq_zero_iff.trans eq_comm

/-- Settles O46: both parts are `crc16_append_word_eq_zero_iff`. -/
theorem crcResidualIsZero : Obligations.CrcResidualIsZero := by
  intro d
  refine ⟨(crc16_append_word_eq_zero_iff _ _ _).mpr ?_, fun hi lo => ?_⟩
  · refine BitVec.eq_of_getLsbD_eq fun i hi => ?_
    rw [getLsbD_word, BitVec.getLsbD_extractLsb', BitVec.getLsbD_extractLsb']
    by_cases low : i < 8
    · simp [low]
    · simp [low, show i - 8 < 8 by omega, show 8 + (i - 8) = i by omega]
  · rw [crcCheck, beq_iff_eq, crc16_append_word_eq_zero_iff]

/-- Settles O45: seven evaluations. -/
theorem crcGoldenValues : Obligations.CrcGoldenValues := by
  refine ⟨rfl, ?_, ?_, ?_, ?_, ?_, ?_⟩ <;> decide +kernel

end Sys2Proof.Proofs
end

section
/-! PROOFS. The layout of the store and its bytes (spec/20_memory.md R64, R67 to R71). -/

namespace Sys2Proof.Proofs

open Sys2Proof.Machine Sys2Proof.Laws

theorem geometry_eq {u : MediaUnit} {t : Nat} (onMedium : t < u.numTracks) :
    u.geometry t = some (if t < u.zoneBoundary then u.zone0 else u.zone1) := by
  rw [MediaUnit.geometry, if_neg (Nat.not_le.mpr onMedium)]
  split <;> rfl

theorem trackBytes_eq {u : MediaUnit} {t : Nat} (onMedium : t < u.numTracks) : u.trackBytes t =
    if t < u.zoneBoundary then u.zone0.sectors * u.zone0.size else u.zone1.sectors * u.zone1.size := by
  rw [MediaUnit.trackBytes, geometry_eq onMedium]
  dsimp only
  split <;> rfl

/-- R68 in closed form: the tracks of the first zone, then those of the second. -/
theorem bytesBefore_eq {u : MediaUnit} {t : Nat} (h : t ≤ u.numTracks) : u.bytesBefore t =
    min t u.zoneBoundary * (u.zone0.sectors * u.zone0.size) +
      (t - u.zoneBoundary) * (u.zone1.sectors * u.zone1.size) := by
  induction t with
  | zero => simp [MediaUnit.bytesBefore]
  | succ t ih =>
    rw [MediaUnit.bytesBefore, ih (by omega), trackBytes_eq (by omega)]
    split
    · rw [show min (t + 1) u.zoneBoundary = min t u.zoneBoundary + 1 by omega,
        show t + 1 - u.zoneBoundary = t - u.zoneBoundary by omega]
      ring
    · rw [show min (t + 1) u.zoneBoundary = min t u.zoneBoundary by omega,
        show t + 1 - u.zoneBoundary = t - u.zoneBoundary + 1 by omega]
      ring

/-- Settles O47: `bytesBefore_eq` for the track, and for all the tracks of a side. -/
theorem locateHasItsClosedForm : Obligations.LocateHasItsClosedForm := by
  intro u t side k onMedium b sideBytes before size
  have hside : u.sideBytes = sideBytes := by
    rw [MediaUnit.sideBytes, bytesBefore_eq (Nat.le_refl _), Nat.min_comm]
    unfold sideBytes b
    rw [show u.numTracks - min u.zoneBoundary u.numTracks = u.numTracks - u.zoneBoundary by omega]
    ring
  have hbefore : u.bytesBefore t = before := by
    rw [bytesBefore_eq (by omega)]
    unfold before
    split
    · rw [show min t u.zoneBoundary = t by omega, show t - u.zoneBoundary = 0 by omega]
      ring
    · rw [show min t u.zoneBoundary = u.zoneBoundary by omega]
      ring
  have hsize : u.sectorSize t = size := by
    rw [sectorSize_eq (geometry_eq onMedium)]
    exact apply_ite Zone.size _ _ _
  rw [MediaUnit.locate, hside, hbefore, hsize]
  cases side <;> rfl

theorem bytesBefore_mono (u : MediaUnit) {t t' : Nat} (h : t ≤ t') : u.bytesBefore t ≤ u.bytesBefore t' := by
  induction h with
  | refl => exact Nat.le_refl _
  | step _ ih => exact Nat.le_add_right_of_le ih

theorem lt_numTracks_of_geometry {u : MediaUnit} {t : Nat} {g : Zone} (h : u.geometry t = some g) : t < u.numTracks := by
  by_contra beyond
  rw [MediaUnit.geometry, if_pos (Nat.not_lt.mp beyond)] at h
  cases h

/-- A record ends within its track. -/
theorem record_end_le {u : MediaUnit} {t k : Nat} {g : Zone} (hg : u.geometry t = some g) (hk : k < g.sectors) :
    u.bytesBefore t + k * u.sectorSize t + g.size ≤ u.bytesBefore (t + 1) := by
  have track : u.trackBytes t = g.sectors * g.size := by rw [MediaUnit.trackBytes, hg]
  have within : (k + 1) * g.size ≤ g.sectors * g.size := Nat.mul_le_mul_right _ hk
  rw [MediaUnit.bytesBefore, track, sectorSize_eq hg]
  rw [Nat.succ_mul] at within
  omega

/-- Settles O48: a record ends within its track, and tracks and sides follow one another. -/
theorem recordsAreOrderedAndDisjoint : Obligations.RecordsAreOrderedAndDisjoint := by
  intro u g g' t t' k k' side side'
  refine ⟨by simp [MediaUnit.locate, sideNumber, MediaUnit.bytesBefore], fun hg hg' hk hk' order => ?_⟩
  have ends := record_end_le hg hk
  rcases order with ⟨rfl, rfl⟩ | ⟨rfl, earlier | ⟨rfl, earlier⟩⟩
  · have onSide := bytesBefore_mono u (t := t + 1) (lt_numTracks_of_geometry hg)
    simp only [MediaUnit.locate, sideNumber, MediaUnit.sideBytes, Bool.toNat_false, Bool.toNat_true]
    omega
  · have onTrack := bytesBefore_mono u (t := t + 1) earlier
    simp only [MediaUnit.locate]
    omega
  · have next : (k + 1) * g.size ≤ k' * g.size := Nat.mul_le_mul_right _ earlier
    rw [Nat.succ_mul] at next
    rw [MediaUnit.locate, MediaUnit.locate, sectorSize_eq hg]
    omega

/-- Settles O49: the write that takes is a `writeRange` (`writeBytes_of_ok`), which `read_writeRange` reads back. -/
theorem storeReadsBackWhatWasWritten : Obligations.StoreReadsBackWhatWasWritten := by
  intro u draw draw' off bytes wf takes within
  have written := writeBytes_of_ok draw (writeFails_eq_false takes within)
  have unchanged : (u.writeBytes draw off bytes).1.storeSize = u.storeSize := by rw [written]; exact storeSize_store u _
  have read (a : Nat) := Memory.read_writeRange (bs := bytes) (a := off) (a' := a) (store_wf wf)
  refine ⟨by rw [written], writeBytes_wf wf, ?_, fun a outside => ?_⟩
  · refine List.ext_getElem (readBytes_length _ _ _ _) fun i h h' => ?_
    have inStore : off + i < u.storeSize := by omega
    simp only [MediaUnit.readBytes, List.getElem_map, List.getElem_range]
    rw [unchanged, if_pos inStore, written]
    refine (read (off + i)).trans ?_
    rw [if_pos ⟨Nat.le_add_right _ _, Nat.add_lt_add_left h' _⟩, Nat.add_sub_cancel_left,
      List.getD_eq_getElem _ _ h']
  · rw [written]
    exact (read a).trans (if_neg outside)

end Sys2Proof.Proofs
end

section
/-! PROOFS. The rotational search (spec/20_memory.md R72 to R74). -/

namespace Sys2Proof.Proofs

open Sys2Proof.Machine Sys2Proof.Laws

/-- R73: the id has the wanted sector number, and the wanted side where it is compared. -/
def IdMatches (wanted : Byte) (cmp cmpSide : Bool) (id : SectorId) : Prop :=
  id.sec = wanted ∧ (cmp = true → id.sd = if cmpSide = true then 1 else 0)

/-- R73: the `i`-th position of the rotation from the cursor. -/
def rotated (cursor n i : Nat) : Nat := (cursor % n + i) % n

theorem idMatches_iff (wanted : Byte) (cmp cmpSide : Bool) (id : SectorId) :
    IdMatches wanted cmp cmpSide id ↔ id.sec = wanted ∧ (cmp = false ∨ id.sd = sideByte cmpSide) := by
  unfold IdMatches
  cases cmp <;> cases cmpSide <;> simp [sideByte]

theorem matchAt_eq_some {u : MediaUnit} {t p p' : Nat} {side cmp cmpSide : Bool} {wanted : Byte} {id : SectorId} :
    u.matchAt t side wanted cmp cmpSide p = some (p', id) ↔
      p' = p ∧ u.sectorId t side p = some id ∧ IdMatches wanted cmp cmpSide id := by
  unfold MediaUnit.matchAt
  cases u.sectorId t side p with
  | none => simp
  | some found =>
    simp only [← idMatches_iff, Option.ite_none_right_eq_some, Option.some.injEq, Prod.mk.injEq]
    constructor
    · rintro ⟨hit, rfl, rfl⟩
      exact ⟨rfl, rfl, hit⟩
    · rintro ⟨rfl, rfl, hit⟩
      exact ⟨hit, rfl, rfl⟩

theorem matchAt_eq_none {u : MediaUnit} {t p : Nat} {side cmp cmpSide : Bool} {wanted : Byte} :
    u.matchAt t side wanted cmp cmpSide p = none ↔
      ∀ id, u.sectorId t side p = some id → ¬ IdMatches wanted cmp cmpSide id := by
  rw [Option.eq_none_iff_forall_ne_some]
  constructor
  · exact fun nothing id found hit => nothing (p, id) (matchAt_eq_some.mpr ⟨rfl, found, hit⟩)
  · rintro nothing ⟨p', id⟩ found
    obtain ⟨-, present, hit⟩ := matchAt_eq_some.mp found
    exact nothing id present hit

section

variable {u : MediaUnit} {t : Nat} {g : Zone} (hg : u.geometry t = some g)
include hg

theorem search_eq (side : Bool) (cursor : Nat) (wanted : Byte) (cmp cmpSide : Bool) :
    u.search t side cursor wanted cmp cmpSide =
      ((List.range g.sectors).map (rotated cursor g.sectors)).findSome? (u.matchAt t side wanted cmp cmpSide) := by
  rw [MediaUnit.search, hg]
  rfl

/-- R73: what is found is the first match in the rotation. -/
theorem search_eq_some {side cmp cmpSide : Bool} {cursor p : Nat} {wanted : Byte} {id : SectorId} :
    u.search t side cursor wanted cmp cmpSide = some (p, id) ↔
      ∃ i, i < g.sectors ∧ p = rotated cursor g.sectors i ∧ u.sectorId t side p = some id ∧
        IdMatches wanted cmp cmpSide id ∧
        ∀ j, j < i → ∀ id', u.sectorId t side (rotated cursor g.sectors j) = some id' →
          ¬ IdMatches wanted cmp cmpSide id' := by
  rw [search_eq hg, List.findSome?_eq_some_iff]
  constructor
  · rintro ⟨before, q, after, split, found, none⟩
    obtain ⟨rfl, present, hit⟩ := matchAt_eq_some.mp found
    have len : g.sectors = before.length + (after.length + 1) := by simpa using congrArg List.length split
    have at' (j : Nat) (hj : j < g.sectors) : (before ++ p :: after)[j]? = some (rotated cursor g.sectors j) := by
      simp [← split, hj]
    have last := at' before.length (by omega)
    rw [List.getElem?_append_right (Nat.le_refl _), Nat.sub_self] at last
    refine ⟨before.length, by omega, Option.some.inj last, present, hit, fun j hj => ?_⟩
    have earlier := at' j (by omega)
    rw [List.getElem?_append_left hj] at earlier
    exact matchAt_eq_none.mp (none _ (List.mem_of_getElem? earlier))
  · rintro ⟨i, hi, rfl, present, hit, earlier⟩
    refine ⟨(List.range i).map (rotated cursor g.sectors), rotated cursor g.sectors i,
      (List.range' (i + 1) (g.sectors - (i + 1))).map (rotated cursor g.sectors), ?_,
      matchAt_eq_some.mpr ⟨rfl, present, hit⟩, fun q member => ?_⟩
    · rw [← List.map_cons, ← List.map_append]
      congr 1
      have whole := List.range'_append_1 (s := 0) (m := i) (n := g.sectors - (i + 1) + 1)
      rw [Nat.zero_add, show i + (g.sectors - (i + 1) + 1) = g.sectors by omega] at whole
      rw [List.range_eq_range', List.range_eq_range', ← List.range'_succ, whole]
    · obtain ⟨j, hj, rfl⟩ := List.mem_map.mp member
      exact matchAt_eq_none.mpr (earlier j (List.mem_range.mp hj))

/-- R73: nothing is found exactly when no position of the rotation matches. -/
theorem search_eq_none {side cmp cmpSide : Bool} {cursor : Nat} {wanted : Byte} :
    u.search t side cursor wanted cmp cmpSide = none ↔
      ∀ i, i < g.sectors → ∀ id, u.sectorId t side (rotated cursor g.sectors i) = some id →
        ¬ IdMatches wanted cmp cmpSide id := by
  rw [search_eq hg, List.findSome?_eq_none_iff]
  simp only [List.mem_map, List.mem_range, forall_exists_index, and_imp, forall_apply_eq_imp_iff₂, matchAt_eq_none]

end

/-- Settles O17: `search_eq_some` and `search_eq_none`. -/
theorem searchAnswersTheFirstMatchInRotation : Obligations.SearchAnswersTheFirstMatchInRotation := by
  intro u t side cursor wanted cmp cmpSide
  exact ⟨fun unreadable => search_none unreadable _ _ _ _ _, fun g hg =>
    ⟨fun p id => search_eq_some hg, search_eq_none hg⟩⟩

/-! ### A conforming medium (R74) -/

theorem rotated_lt {n : Nat} (positive : 0 < n) (cursor i : Nat) : rotated cursor n i < n := Nat.mod_lt _ positive

theorem rotated_inj {cursor n i j : Nat} (hi : i < n) (hj : j < n) (same : rotated cursor n i = rotated cursor n j) :
    i = j :=
  Nat.ModEq.eq_of_lt_of_lt (Nat.ModEq.add_left_cancel' (cursor % n) same) hi hj

/-- The rotation from any cursor comes to every position. -/
theorem exists_rotated_eq {cursor n p : Nat} (hp : p < n) : ∃ i, i < n ∧ rotated cursor n i = p := by
  have surjective : Function.Surjective fun i : Fin n => (⟨rotated cursor n i, rotated_lt (by omega) _ _⟩ : Fin n) :=
    Finite.injective_iff_surjective.mp fun i j same =>
      Fin.ext (rotated_inj i.isLt j.isLt (Fin.mk.inj same))
  obtain ⟨i, hi⟩ := surjective ⟨p, hp⟩
  exact ⟨i, i.isLt, Fin.mk.inj hi⟩

/-- The rotation from just past a position comes to it last. -/
theorem rotated_past {n p i : Nat} (hp : p < n) (hi : i < n) :
    rotated ((p + 1) % n) n i = p ↔ i + 1 = n := by
  have last : rotated ((p + 1) % n) n (n - 1) = p := by
    unfold rotated
    rw [Nat.mod_mod, Nat.mod_add_mod, show p + 1 + (n - 1) = p + n by omega, Nat.add_mod_right, Nat.mod_eq_of_lt hp]
  constructor
  · intro same
    have := rotated_inj hi (by omega) (same.trans last.symm)
    omega
  · intro h
    obtain rfl : i = n - 1 := by omega
    exact last

/-- Where only position `p` matches, the search finds it from every cursor. -/
theorem search_of_unique {u : MediaUnit} {t p cursor : Nat} {g : Zone} {side cmp cmpSide : Bool} {wanted : Byte}
    {id : SectorId} (hg : u.geometry t = some g) (hp : p < g.sectors) (present : u.sectorId t side p = some id)
    (hit : IdMatches wanted cmp cmpSide id)
    (unique : ∀ q, q < g.sectors → ∀ id', u.sectorId t side q = some id' → IdMatches wanted cmp cmpSide id' → q = p) :
    u.search t side cursor wanted cmp cmpSide = some (p, id) := by
  obtain ⟨i, hi, at'⟩ := exists_rotated_eq (cursor := cursor) hp
  refine (search_eq_some hg).mpr ⟨i, hi, at'.symm, present, hit, fun j hj id' found hit' => ?_⟩
  have same := unique _ (rotated_lt (by omega) _ _) id' found hit'
  have := rotated_inj (by omega) hi (same.trans at'.symm)
  omega

/-- A medium without deviating ids carries the interleave of its zone. -/
theorem sectorId_conforming {u : MediaUnit} {t : Nat} {g : Zone} {side : Bool} (conforming : u.idTable = [])
    (hg : u.geometry t = some g) (onMedium : side.toNat < u.numSides) (p : Nat) :
    u.sectorId t side p = (g.interleave[p]?).map fun sec => ⟨t % 256, sideByte side, sec, g.sizeCode⟩ := by
  rw [MediaUnit.sectorId, conforming, List.find?_nil, MediaUnit.conformingId, hg]
  show (if u.numSides ≤ side.toNat then none else _) = _
  rw [if_neg (Nat.not_le.mpr onMedium)]
  cases g.interleave[p]? <;> rfl

/-- The first 256 numbers are distinct as bytes. -/
theorem byteNumbers_nodup {n : Nat} (h : n ≤ 256) : ((List.range n).map (BitVec.ofNat 8)).Nodup := by
  refine List.Nodup.map_on (fun a ha b hb same => ?_) List.nodup_range
  have toNat := congrArg BitVec.toNat same
  rw [List.mem_range] at ha hb
  rwa [BitVec.toNat_ofNat, BitVec.toNat_ofNat, Nat.mod_eq_of_lt (by omega), Nat.mod_eq_of_lt (by omega)] at toNat

/-- Settles O18: the interleave holds the sector number at one position (`List.Nodup.getElem_inj_iff`), where every search finds
it (`search_of_unique`), last when started just past it (`rotated_past`). -/
theorem rotationIsComplete : Obligations.RotationIsComplete := by
  intro u t side g cursor k conforming hg onMedium small perm hk
  have ids := sectorId_conforming conforming hg onMedium
  have length : g.interleave.length = g.sectors := by simpa using perm.length_eq
  have nodup : g.interleave.Nodup := perm.nodup_iff.mpr (byteNumbers_nodup small)
  have member : BitVec.ofNat 8 k ∈ g.interleave :=
    perm.mem_iff.mpr (List.mem_map_of_mem (List.mem_range.mpr hk))
  obtain ⟨p, hp, holds⟩ := List.getElem_of_mem member
  let id : SectorId := ⟨t % 256, sideByte side, BitVec.ofNat 8 k, g.sizeCode⟩
  have present : u.sectorId t side p = some id := by
    rw [ids, List.getElem?_eq_getElem hp, holds]
    rfl
  have unique : ∀ q, q < g.sectors → ∀ id', u.sectorId t side q = some id' → id'.sec = BitVec.ofNat 8 k → q = p := by
    intro q hq id' found sec
    rw [ids, List.getElem?_eq_getElem (by omega)] at found
    obtain rfl := Option.some.inj found
    exact nodup.getElem_inj_iff.mp ((show g.interleave[q] = _ from sec).trans holds.symm)
  have hit : IdMatches (BitVec.ofNat 8 k) false false id := ⟨rfl, nofun⟩
  have found (cursor : Nat) : u.search t side cursor (BitVec.ofNat 8 k) false false = some (p, id) :=
    search_of_unique hg (by omega) present hit fun q hq id' found hit' => unique q hq id' found hit'.1
  obtain ⟨i, hi, at'⟩ := exists_rotated_eq (cursor := cursor) (n := g.sectors) (p := p) (by omega)
  refine ⟨i, p, id, hi, at'.symm, found _, rfl, unique, found _, fun j hj at'' => ?_⟩
  rw [← Nat.mod_mod (p + 1)] at at''
  have := (rotated_past (by omega) (by omega)).mp at''
  omega

end Sys2Proof.Proofs
end

section
/-! PROOFS. The timeline (spec/48_scheduler.md R330, R335, R336, R339). -/

namespace Sys2Proof.Proofs

open Sys2Proof.Machine Sys2Proof.Laws

/-- R335: event `a` does not fire after event `b`. -/
def Precedes (a b : EventKind × Slot) : Prop :=
  a.2.fireTime < b.2.fireTime ∨
    (a.2.fireTime = b.2.fireTime ∧ EventKind.all.idxOf a.1 ≤ EventKind.all.idxOf b.1)

theorem Precedes.refl (a : EventKind × Slot) : Precedes a a := .inr ⟨rfl, Nat.le_refl _⟩

theorem Precedes.trans {a b c : EventKind × Slot} (ab : Precedes a b) (bc : Precedes b c) : Precedes a c := by
  unfold Precedes at *
  omega

theorem idxOf_kind_inj {k k' : EventKind} (h : EventKind.all.idxOf k = EventKind.all.idxOf k') : k = k' :=
  (List.idxOf_inj (by cases k <;> decide)).mp h

theorem Precedes.kind_eq {a b : EventKind × Slot} (ab : Precedes a b) (ba : Precedes b a) : a.1 = b.1 := by
  unfold Precedes at ab ba
  exact idxOf_kind_inj (by omega)

/-- `r` is the first pending event among those of the kinds `ks`. -/
def IsFirst (q : Slots) (ks : List EventKind) (r : Option (EventKind × Slot)) : Prop :=
  (r = none → ∀ k ∈ ks, q.get k = none) ∧
    ∀ e, r = some e → e.1 ∈ ks ∧ q.get e.1 = some e.2 ∧ ∀ k ∈ ks, ∀ y, q.get k = some y → Precedes e (k, y)

/-- One more kind, later in the order of ties, as `Slots.next` looks at it. -/
theorem IsFirst.snoc {q : Slots} {ks : List EventKind} {r : Option (EventKind × Slot)} (h : IsFirst q ks r)
    {k : EventKind} (later : ∀ k' ∈ ks, EventKind.all.idxOf k' ≤ EventKind.all.idxOf k) :
    IsFirst q (ks ++ [k]) (earlierEvent r ((q.get k).map fun x => (k, x))) := by
  obtain ⟨absent, first⟩ := h
  have kinds {P : EventKind → Prop} : (∀ k' ∈ ks ++ [k], P k') ↔ (∀ k' ∈ ks, P k') ∧ P k := by
    simp [or_imp, forall_and]
  unfold IsFirst
  simp only [kinds]
  cases r with
  | none =>
    cases pending : q.get k with
    | none => exact ⟨fun _ => ⟨absent rfl, rfl⟩, nofun⟩
    | some x =>
      refine ⟨nofun, fun e he => ?_⟩
      obtain rfl := Option.some.inj he
      refine ⟨by simp, pending, fun k' mem y here => ?_, fun y here => ?_⟩
      · rw [absent rfl k' mem] at here
        cases here
      · rw [Option.some.inj here]
        exact .refl _
  | some b =>
    obtain ⟨mem, here, least⟩ := first b rfl
    cases pending : q.get k with
    | none =>
      refine ⟨nofun, fun e he => ?_⟩
      obtain rfl := Option.some.inj he
      exact ⟨List.mem_append_left _ mem, here, least, nofun⟩
    | some x =>
      by_cases earlier : x.fireTime < b.2.fireTime
      · refine ⟨fun h => absurd h (by simp [earlierEvent, earlier]), fun e he => ?_⟩
        rw [Option.map_some, earlierEvent, if_pos (by exact earlier)] at he
        obtain rfl := Option.some.inj he
        refine ⟨by simp, pending, fun k' mem' y here' => Precedes.trans (.inl earlier) (least k' mem' y here'),
          fun y here' => ?_⟩
        rw [Option.some.inj here']
        exact .refl _
      · refine ⟨fun h => absurd h (by simp [earlierEvent, earlier]), fun e he => ?_⟩
        rw [Option.map_some, earlierEvent, if_neg (by exact earlier)] at he
        obtain rfl := Option.some.inj he
        refine ⟨List.mem_append_left _ mem, here, least, fun y here' => ?_⟩
        obtain rfl := Option.some.inj here'
        exact (Nat.lt_or_eq_of_le (Nat.not_lt.mp earlier)).imp_right fun tie => ⟨tie, later _ mem⟩

theorem IsFirst.foldl {q : Slots} (ks ks' : List EventKind) {r : Option (EventKind × Slot)} (h : IsFirst q ks r)
    (ordered : (ks ++ ks').Pairwise fun a b => EventKind.all.idxOf a ≤ EventKind.all.idxOf b) :
    IsFirst q (ks ++ ks') (ks'.foldl (fun best k => earlierEvent best ((q.get k).map fun x => (k, x))) r) := by
  induction ks' generalizing ks r with
  | nil => rwa [List.append_nil]
  | cons k ks' ih =>
    have later (k' : EventKind) (mem : k' ∈ ks) := (List.pairwise_append.mp ordered).2.2 k' mem k List.mem_cons_self
    rw [List.append_cons] at ordered ⊢
    exact ih (ks ++ [k]) (h.snoc later) ordered

/-- R335: `Slots.next` answers the first of all pending events. -/
theorem isFirst_next (q : Slots) : IsFirst q EventKind.all q.next :=
  IsFirst.foldl [] EventKind.all ⟨fun _ => nofun, nofun⟩ (by decide)

theorem mem_all (k : EventKind) : k ∈ EventKind.all := by cases k <;> decide

theorem eq_empty_of_get {q : Slots} (h : ∀ k, q.get k = none) : q = Slots.empty :=
  (Slots.mk.injEq ..).mpr
    ⟨h .stepSeek, h .seekEnd, h .search, h .fiRearm, h .multi1, h .multi2, h .dataLoss⟩

/-- Settles O41: `isFirst_next`, and that there is only one first event (`Precedes.kind_eq`). -/
theorem earliestPendingEventFires : Obligations.EarliestPendingEventFires := by
  intro q
  obtain ⟨absent, first⟩ := isFirst_next q
  refine ⟨fun k x => ⟨fun fires => ?_, fun ⟨pending, least⟩ => ?_⟩, fun nothing => ?_, fun empty => by rw [empty]; rfl⟩
  · obtain ⟨-, pending, least⟩ := first _ fires
    exact ⟨pending, fun k' y here => least k' (mem_all k') y here⟩
  · cases fires : q.next with
    | none =>
      rw [absent fires k (mem_all k)] at pending
      cases pending
    | some e =>
      obtain ⟨k', x'⟩ := e
      obtain ⟨-, pending', least'⟩ := first _ fires
      obtain rfl : k' = k :=
        Precedes.kind_eq (a := (k', x')) (b := (k, x)) (least' k (mem_all k) x pending) (least k' x' pending')
      exact congrArg (fun x => some (k', x)) (Option.some.inj (pending'.symm.trans pending))
  · exact eq_empty_of_get fun k => absent nothing k (mem_all k)

/-- Settles O43: the invariant's clause on pending events, with `next_only` and `get_only`. -/
theorem onlyOneEventIsPendingAndItIsNotStale : Obligations.OnlyOneEventIsPendingAndItIsNotStale := by
  intro s inv k x fires
  rcases inv.pending with ⟨empty, -⟩ | ⟨k', x', pending, -, own, inTime⟩
  · rw [empty] at fires
    cases fires
  · rw [pending, next_only] at fires
    cases fires
    refine ⟨own, by rw [pending, only_put_none], inTime, fun k' y here => ?_⟩
    rw [pending, get_only, Option.ite_none_right_eq_some] at here
    exact ⟨here.1, (Option.some.inj here.2).symm⟩

/-- Settles O42: an event of another command is stale (`fire_stale`). -/
theorem staleEventIsDiscarded : Obligations.StaleEventIsDiscarded := by
  intro s rest k x hhost hnext stale
  rw [step_cons hhost, takeStimulus, fire_stale (by exact hnext) (by exact stale)]

/-- Settles O55: with no stimulus the block fires, and nothing is pending (`fire_none`). -/
theorem quiescentBlockStaysAsItIs : Obligations.QuiescentBlockStaysAsItIs := by
  rintro s ⟨-, empty⟩ hhost
  rw [step_nil hhost, fire_none (by rw [empty]; rfl)]

end Sys2Proof.Proofs
end

section
/-! PROOFS. The inputs and the stimuli that no fault answers (spec/40_bus_interface.md, spec/60_exceptions.md R360,
spec/10_state.md R43). -/

namespace Sys2Proof.Proofs

open Sys2Proof.Machine Sys2Proof.Laws

/-- Settles O40: the drive of the change exists or not. -/
theorem inputChangeSetsOnlyTheInputs : Obligations.InputChangeSetsOnlyTheInputs := by
  intro s rest d side motor hhost
  rw [step_cons hhost, takeStimulus]
  exact ⟨fun exists' => if_pos exists', fun missing => if_neg (Nat.not_lt.mpr missing)⟩

/-- A stimulus of the spec is taken without a fault: only a missing drive or a unit outside the contract raises one. -/
theorem takeStimulus_of_wf {x : Stimulus} {s : State} (h : x.wf s.media.length = true) :
    ∃ t, takeStimulus x s = .next t := by
  cases x with
  | write p v =>
    cases p with
    | control => exact ⟨_, exec_eq_executed _ _⟩
    | track => exact ⟨_, rfl⟩
    | sector => exact ⟨_, rfl⟩
    | data => exact ⟨_, rfl⟩
  | read p => exact ⟨_, rfl⟩
  | set drive side motor => exact ⟨_, if_pos (of_decide_eq_true h)⟩
  | fire => exact ⟨_, rfl⟩
  | reset => exact ⟨_, rfl⟩
  | media drive unit =>
    obtain ⟨hd, wf⟩ := (Bool.and_eq_true _ _).mp h
    exact ⟨_, (if_neg (Nat.not_le.mpr (of_decide_eq_true hd))).trans (if_pos wf)⟩

/-- Settles O54: the oldest stimulus is taken (`takeStimulus_of_wf`), or a pending event fires. -/
theorem noStimulusStopsTheBlock : Obligations.NoStimulusStopsTheBlock := by
  intro s wf
  cases hhost : s.host with
  | nil => exact ⟨_, step_nil hhost⟩
  | cons x rest =>
    rw [step_cons hhost]
    exact takeStimulus_of_wf (wf x (by rw [Takes, hhost]; rfl))

/-- Settles O50: the fields of `State.reset`. -/
theorem resetStateHoldsTheResetValues : Obligations.ResetStateHoldsTheResetValues := by
  refine ⟨rfl, rfl, rfl, rfl, rfl, rfl, rfl, rfl, rfl, rfl, rfl, rfl, rfl, rfl, rfl, rfl, rfl, rfl, rfl, rfl, rfl, rfl,
    rfl, rfl, rfl, rfl, rfl, rfl, rfl, rfl, rfl, rfl, rfl, rfl, rfl⟩

end Sys2Proof.Proofs
end

section
/-! PROOFS. The Type I commands left to their timers (spec/42_type1.md R180 to R188). -/

namespace Sys2Proof.Proofs

open Sys2Proof.Machine Sys2Proof.Laws

theorem run_one {M : Host.Core} {s u : M.State} (h : M.step s = .next u) : M.run 1 s = .next u := by
  rw [Host.Core.run, h]
  rfl

/-- One more step at the end of a run. -/
theorem run_succ_of_run {M : Host.Core} {n : Nat} {s u v : M.State} (h : M.run n s = .next u)
    (last : M.step u = .next v) : M.run (n + 1) s = .next v := by
  induction n generalizing s with
  | zero =>
    cases h
    exact run_one last
  | succ n ih =>
    rw [Host.Core.run] at h ⊢
    cases first : M.step s with
    | next s' =>
      rw [first] at h
      exact ih h
    | fault r =>
      rw [first] at h
      cases h
    | refused r =>
      rw [first] at h
      cases h

/-- The Type I command of `t` under way: head and TRACK as given, the next step or the arrival pending (R180, R186). -/
def travelling (t : State) (head : Nat) (track : Byte) (now : Nat) : State :=
  { t with
    physicalTrack := head
    track := track
    now := now
    slots :=
      if t.seekTarget = head then Slots.only .seekEnd ⟨now + t.config.delays.seekEnd, t.cmdType⟩
      else Slots.only .stepSeek ⟨now + t.stepDelay, t.cmdType⟩ }

theorem travelling_slots_off {t : State} {head : Nat} (off : head ≠ t.seekTarget) (track : Byte) (now : Nat) :
    (travelling t head track now).slots = Slots.only .stepSeek ⟨now + t.stepDelay, t.cmdType⟩ :=
  if_neg off.symm

theorem travelling_slots_there {t : State} {head : Nat} (there : head = t.seekTarget) (track : Byte) (now : Nat) :
    (travelling t head track now).slots = Slots.only .seekEnd ⟨now + t.config.delays.seekEnd, t.cmdType⟩ :=
  if_pos there.symm

/-- R186: the head one track closer to the target. -/
def toward (target head : Nat) : Nat := if head < target then head + 1 else head - 1

/-- R186: TRACK after a step of the head, which only the Step family with u writes. -/
def trackStepped (t : State) (head : Nat) (track : Byte) : Byte :=
  if 0x20 ≤ t.command.toNat ∧ t.command.toNat < 0x80 ∧ t.command.getLsbD 4 = true then
    BitVec.ofNat 8 (min (if head < t.seekTarget then track.toNat + 1 else track.toNat - 1) t.config.maxTrack)
  else track

section

variable {t : State} (hhost : t.host = [])
include hhost

theorem step_travelling {head : Nat} (off : head ≠ t.seekTarget) (track : Byte) (now : Nat) :
    step (travelling t head track now) =
      .next (travelling t (toward t.seekTarget head) (trackStepped t head track) (now + t.stepDelay)) := by
  rw [step_timer_only (s := travelling t head track now) (by exact hhost) (travelling_slots_off off _ _)]
  show Host.Outcome.next (State.startMotion (State.moveOneTrack _)) = _
  rw [moveOneTrack_eq (by exact off), startMotion_eq]
  rfl

/-- R187: the firing at the target is the arrival. -/
theorem step_travelling_arrives (track : Byte) (now : Nat) :
    step (travelling t t.seekTarget track now) =
      .next (onSeekEnd { travelling t t.seekTarget track now with
        now := now + t.config.delays.seekEnd
        slots := Slots.empty }) :=
  step_timer_only (k := .seekEnd) (t := now + t.config.delays.seekEnd) hhost (travelling_slots_there rfl _ _)

/-- A RESTORE or SEEK under way moves one track for each firing and leaves TRACK alone. -/
theorem run_travelling (notStep : t.command.toNat < 0x20) {k head : Nat} (track : Byte) (now : Nat)
    (far : k ≤ if head ≤ t.seekTarget then t.seekTarget - head else head - t.seekTarget) :
    ∃ now', core.run k (travelling t head track now) =
      .next (travelling t (if head ≤ t.seekTarget then head + k else head - k) track now') := by
  induction k with
  | zero => exact ⟨now, by rw [Nat.add_zero, Nat.sub_zero, ite_self]; rfl⟩
  | succ k ih =>
    obtain ⟨now', run⟩ := ih (Nat.le_of_succ_le far)
    have kept (head : Nat) : trackStepped t head track = track := if_neg fun step => by omega
    have off : (if head ≤ t.seekTarget then head + k else head - k) ≠ t.seekTarget := by
      split at far <;> split <;> omega
    refine ⟨now' + t.stepDelay, run_succ_of_run run ((step_travelling hhost off track now').trans ?_)⟩
    have closer : toward t.seekTarget (if head ≤ t.seekTarget then head + k else head - k) =
        if head ≤ t.seekTarget then head + (k + 1) else head - (k + 1) := by
      by_cases below : head ≤ t.seekTarget
      · rw [if_pos below] at far ⊢
        rw [if_pos below]
        exact if_pos (by omega)
      · rw [if_neg below] at far ⊢
        rw [if_neg below]
        exact if_neg (by omega)
    rw [kept, closer]
    rfl

end

/-! ### From the dispatch on (R180) -/

/-- R180: the dispatch leaves the command under way from where the head stands. -/
theorem typeIStarted_eq_travelling (s : State) {b : Byte} {r : BitVec 2} (rate : r = rateField b) (h : Bool)
    (target : Nat) (dir : Direction) :
    typeIStarted s b h r target dir =
      travelling (typeIStarted s b h r target dir) s.physicalTrack s.track s.now := by
  rw [rate]
  rfl

theorem typeIStarted_busy (s : State) (b : Byte) (h : Bool) (r : BitVec 2) (target : Nat) (dir : Direction) :
    (typeIStarted s b h r target dir).busy = true := by
  show (if s.ready = true then (0x01 : Byte) else 0x81).getLsbD bitBusy = true
  split <;> rfl

/-- The state after the arrival of a command without V: TRACK and STATUS by `arrivalTrack` and `arrivalStatus`. -/
theorem onSeekEnd_of_no_verify {s : State} (h : s.flagV = false) : onSeekEnd s =
    { arrived s with
      status := arrivalStatus s.status (decide (s.command.toNat < 0x10)) (s.physicalTrack == 0) false
      irq := true
      drq := false
      xferDir := .none
      cmdType := .idle
      phase := .idle
      slots := Slots.empty } := by
  rw [onSeekEnd_eq, arrivalCursor_of_no_verify h, h, Bool.false_and]
  rfl

theorem getLsbD_busy_arrivalStatus (v : Byte) (restore track0 failed : Bool) :
    (arrivalStatus v restore track0 failed).getLsbD bitBusy = false := by
  rw [getLsbD_arrivalStatus, if_pos rfl]

theorem restore_toNat (h v : Bool) (r : BitVec 2) : (encode (.restore h v r)).toNat < 0x10 := by
  revert h v r
  decide

theorem seek_toNat (h v : Bool) (r : BitVec 2) :
    0x10 ≤ (encode (.seek h v r)).toNat ∧ (encode (.seek h v r)).toNat < 0x20 := by
  revert h v r
  decide

/-- Settles O12: the firings before the arrival by `run_travelling`, and the arrival. -/
theorem seekFiresOneStepEventPerTrack : Obligations.SeekFiresOneStepEventPerTrack := by
  intro s h r free hhost target n
  obtain ⟨-, seek, -⟩ := typeICommandsStartTheHead s free
  obtain ⟨-, verify, rate⟩ := fieldsAt_encode (.seek h false r)
  obtain ⟨atLeast, atMost⟩ := seek_toNat h false r
  let dir := if s.physicalTrack < target then Direction.inward
    else if target < s.physicalTrack then .outward else s.stepVector
  let t := typeIStarted s (encode (.seek h false r)) h r target dir
  have start : t = travelling t s.physicalTrack s.track s.now := typeIStarted_eq_travelling s rate h target dir
  have run (k : Nat) (hk : k ≤ n) : ∃ now, core.run k t =
      .next (travelling t (if s.physicalTrack ≤ target then s.physicalTrack + k else s.physicalTrack - k) s.track now) := by
    rw [start]
    exact run_travelling (t := t) hhost atMost _ _ hk
  refine ⟨t, seek h false r, fun k hk => ?_, ?_⟩
  · obtain ⟨now, ran⟩ := run k hk
    refine ⟨_, ran, rfl, rfl, typeIStarted_busy s (encode (.seek h false r)) h r target dir, ?_⟩
    have off : k < n ↔ (if s.physicalTrack ≤ target then s.physicalTrack + k else s.physicalTrack - k) ≠ target := by
      unfold n at hk ⊢
      split at hk <;> split <;> omega
    by_cases more : k < n
    · rw [if_pos more]
      exact ⟨⟨_, .seek⟩, rfl, travelling_slots_off (t := t) (off.mp more) _ _⟩
    · rw [if_neg more]
      exact ⟨⟨_, .seek⟩, rfl, travelling_slots_there (t := t) (not_not.mp (mt off.mpr more)) _ _⟩
  · obtain ⟨now, ran⟩ := run n (Nat.le_refl _)
    have arrived' : (if s.physicalTrack ≤ target then s.physicalTrack + n else s.physicalTrack - n) = target := by
      unfold n
      split <;> omega
    rw [arrived'] at ran
    refine ⟨_, run_succ_of_run ran (step_travelling_arrives (t := t) hhost s.track now), ?_⟩
    rw [onSeekEnd_of_no_verify (by exact verify.symm)]
    refine ⟨rfl, ?_, rfl, getLsbD_busy_arrivalStatus _ _ _ _, rfl, rfl, rfl, rfl⟩
    exact (if_neg (Nat.not_lt.mpr atLeast)).trans (if_pos atMost)

/-- Settles O13: as O12 with the target 0, and the arrival of a RESTORE. -/
theorem restoreReachesTrackZero : Obligations.RestoreReachesTrackZero := by
  intro s h r free hhost
  obtain ⟨restore, -⟩ := typeICommandsStartTheHead s free
  obtain ⟨-, verify, rate⟩ := fieldsAt_encode (.restore h false r)
  have byte := restore_toNat h false r
  let t := typeIStarted s (encode (.restore h false r)) h r 0 .inward
  have start : t = travelling t s.physicalTrack s.track s.now := typeIStarted_eq_travelling s rate h 0 .inward
  have head : (if s.physicalTrack ≤ 0 then s.physicalTrack + s.physicalTrack else s.physicalTrack - s.physicalTrack) = 0 := by
    split <;> omega
  obtain ⟨now, ran⟩ := run_travelling (t := t) hhost (by exact Nat.lt_trans byte (by decide)) s.track s.now
    (k := s.physicalTrack) (head := s.physicalTrack)
    (by show s.physicalTrack ≤ if s.physicalTrack ≤ 0 then 0 - s.physicalTrack else s.physicalTrack - 0; split <;> omega)
  rw [← start, show t.seekTarget = 0 from rfl, head] at ran
  refine ⟨t, restore h false r, _, run_succ_of_run ran (step_travelling_arrives (t := t) hhost s.track now), ?_⟩
  rw [onSeekEnd_of_no_verify (by exact verify.symm)]
  refine ⟨rfl, if_pos byte, rfl, ?_, if_pos byte, ?_, rfl, rfl, rfl, rfl⟩
  · show (decide ((encode (.restore h false r)).toNat < 0x10) || h) = true
    rw [decide_eq_true byte]
    rfl
  · show arrivalStatus (if s.ready = true then 0x01 else 0x81) (decide ((encode (.restore h false r)).toNat < 0x10))
      true false = _
    rw [decide_eq_true byte]
    split <;> rfl

/-! ### The Step family (R183 to R185) -/

theorem stepFamily_toNat {i : Instr} {u h v : Bool} {r : BitVec 2}
    (family : i = .step u h v r ∨ i = .stepIn u h v r ∨ i = .stepOut u h v r) :
    0x20 ≤ (encode i).toNat ∧ (encode i).toNat < 0x80 := by
  rcases family with rfl | rfl | rfl <;> revert u h v r <;> decide

/-- The fields of a command of the Step family. -/
theorem stepFamily_fields {i : Instr} {u h v : Bool} {r : BitVec 2}
    (family : i = .step u h v r ∨ i = .stepIn u h v r ∨ i = .stepOut u h v r) :
    u = (encode i).getLsbD 4 ∧ v = (encode i).getLsbD 2 ∧ r = rateField (encode i) := by
  have fields := fieldsAt_encode i
  rcases family with rfl | rfl | rfl <;>
    exact ⟨fields.1, fields.2.2.1, fields.2.2.2⟩

/-- Where the Step family sends the head: one track on, or nowhere at the boundary. -/
def steppedTarget (s : State) (dir : Direction) : Nat :=
  if dir = .inward then min (s.physicalTrack + 1) s.config.maxTrack else s.physicalTrack - 1

theorem exec_stepFamily {s : State} {i : Instr} {u h v : Bool} {r : BitVec 2} {dir : Direction}
    (free : s.busy = false) (onMedium : s.physicalTrack ≤ s.config.maxTrack)
    (family : (i = .step u h v r ∧ dir = s.stepVector) ∨ (i = .stepIn u h v r ∧ dir = .inward) ∨
      (i = .stepOut u h v r ∧ dir = .outward)) :
    exec i s = .next (typeIStarted s (encode i) h r (steppedTarget s dir) dir) := by
  obtain ⟨-, -, step, stepIn, stepOut⟩ := typeICommandsStartTheHead s free
  have outward : min (s.physicalTrack - 1) s.config.maxTrack = s.physicalTrack - 1 := by omega
  rcases family with ⟨rfl, rfl⟩ | ⟨rfl, rfl⟩ | ⟨rfl, rfl⟩
  · rw [step, steppedTarget]
    by_cases inward : s.stepVector = .inward
    · rw [if_pos inward, if_pos inward]
    · rw [if_neg inward, if_neg inward, outward]
  · rw [stepIn]
    rfl
  · rw [stepOut, outward]
    rfl

/-- A head that moves goes one track in its direction. -/
theorem stepped_moves {s : State} {dir : Direction} (onMedium : s.physicalTrack ≤ s.config.maxTrack)
    (moves : steppedTarget s dir ≠ s.physicalTrack) :
    toward (steppedTarget s dir) s.physicalTrack = steppedTarget s dir ∧
      (s.physicalTrack < steppedTarget s dir ↔ dir = .inward) := by
  cases dir with
  | inward =>
    have up : steppedTarget s .inward = min (s.physicalTrack + 1) s.config.maxTrack := rfl
    rw [up] at moves ⊢
    exact ⟨(if_pos (by omega)).trans (by omega), fun _ => rfl, fun _ => by omega⟩
  | outward =>
    have down : steppedTarget s .outward = s.physicalTrack - 1 := rfl
    rw [down] at moves ⊢
    exact ⟨if_neg (by omega), fun _ => by omega, nofun⟩

/-- TRACK after a step of the Step family (R186). -/
theorem trackStepped_toNat {t : State} (family : 0x20 ≤ t.command.toNat ∧ t.command.toNat < 0x80)
    (small : t.config.maxTrack ≤ 255) (head : Nat) (track : Byte) :
    (trackStepped t head track).toNat =
      if t.command.getLsbD 4 = true then
        min (if head < t.seekTarget then track.toNat + 1 else track.toNat - 1) t.config.maxTrack
      else track.toNat := by
  unfold trackStepped
  by_cases update : t.command.getLsbD 4 = true
  · rw [if_pos ⟨family.1, family.2, update⟩, if_pos update, BitVec.toNat_ofNat, Nat.mod_eq_of_lt (by omega)]
  · rw [if_neg fun h => update h.2.2, if_neg update]

/-- Settles O14: the firings before the arrival are one where the head moves (`step_travelling`) and none at the boundary;
then the arrival. -/
theorem stepFamilyMovesOneTrackOrStopsAtTheBoundary : Obligations.StepFamilyMovesOneTrackOrStopsAtTheBoundary := by
  intro s i u h r dir free hhost onMedium small family target moves
  have members : i = .step u h false r ∨ i = .stepIn u h false r ∨ i = .stepOut u h false r :=
    family.imp And.left (Or.imp And.left And.left)
  obtain ⟨byteLow, byteHigh⟩ := stepFamily_toNat members
  obtain ⟨flagU, verify, rate⟩ := stepFamily_fields members
  let t := typeIStarted s (encode i) h r target dir
  have start : t = travelling t s.physicalTrack s.track s.now := typeIStarted_eq_travelling s rate h target dir
  let track := if moves = true then trackStepped t s.physicalTrack s.track else s.track
  have moved : ∃ now, core.run (if moves = true then 1 else 0) t = .next (travelling t target track now) := by
    unfold track
    by_cases there : target = s.physicalTrack
    · rw [if_neg (by simp [moves, there]), if_neg (by simp [moves, there]), there]
      exact ⟨s.now, congrArg _ start⟩
    · have there' : moves = true := decide_eq_true there
      have onTarget : toward target s.physicalTrack = target := (stepped_moves onMedium there).1
      have stepped := step_travelling (t := t) hhost (Ne.symm there) s.track s.now
      rw [← start, show t.seekTarget = target from rfl, onTarget] at stepped
      rw [if_pos there', if_pos there']
      exact ⟨_, run_one stepped⟩
  obtain ⟨now, ran⟩ := moved
  have count : (if moves = true then 2 else 1) = (if moves = true then 1 else 0) + 1 := by split <;> rfl
  refine ⟨t, exec_stepFamily free onMedium family, _,
    count ▸ run_succ_of_run ran (step_travelling_arrives (t := t) hhost track now), ?_⟩
  rw [onSeekEnd_of_no_verify (by exact verify.symm)]
  have notRestore : ¬ (encode i).toNat < 0x10 := by omega
  refine ⟨rfl, rfl, ?_, ?_, ?_, rfl, rfl, rfl, rfl⟩
  · show (decide ((encode i).toNat < 0x10) || h) = h
    rw [decide_eq_false notRestore, Bool.false_or]
  · have kept : arrivalTrack { travelling t t.seekTarget track now with
        now := now + t.config.delays.seekEnd, slots := Slots.empty } = track :=
      (if_neg notRestore).trans (if_neg (by show ¬ (encode i).toNat < 0x20; omega))
    show (arrivalTrack _).toNat = _
    rw [kept]
    by_cases there : moves = true
    · have inward : s.physicalTrack < target ↔ dir = .inward := (stepped_moves onMedium (of_decide_eq_true there)).2
      unfold track
      rw [if_pos there, trackStepped_toNat (t := t) ⟨byteLow, byteHigh⟩ small]
      show (if (encode i).getLsbD 4 = true then min (if s.physicalTrack < target then _ else _) s.config.maxTrack else _) = _
      rw [← flagU]
      simp only [there, true_and, inward]
    · unfold track
      rw [if_neg there, if_neg fun h => there h.1]
  · show (arrivalStatus _ _ (target == 0) false).getLsbD 2 = _
    rw [getLsbD_arrivalStatus]
    rfl

end Sys2Proof.Proofs
end

section
/-! PROOFS. What a step writes of the registers, the head, the inputs and the media (the table of R44, spec/10_state.md,
and spec/20_memory.md R80, R81). -/

namespace Sys2Proof.Proofs

open Sys2Proof.Machine Sys2Proof.Laws

/-- The fields the table of R44 gives writers for, with the parameters and the media. -/
structure Registers where
  config : Config
  media : List MediaUnit
  command : Byte
  track : Byte
  sector : Byte
  data : Byte
  physicalTrack : Nat
  rotationCursor : Nat
  driveSelect : Nat
  side : Bool
  motorOn : Bool

def registers (s : State) : Registers where
  config := s.config
  media := s.media
  command := s.command
  track := s.track
  sector := s.sector
  data := s.data
  physicalTrack := s.physicalTrack
  rotationCursor := s.rotationCursor
  driveSelect := s.driveSelect
  side := s.side
  motorOn := s.motorOn

/-- The media may have become `media`: no drive appeared or went, and where they differ from those of `s`, `s` runs a
write command, `condition` holds, and the other drives are as they were. -/
def Committed (s : State) (media : List MediaUnit) (condition : Prop) : Prop :=
  media.length = s.media.length ∧
    (media ≠ s.media → s.cmdType.isWrite = true ∧ condition ∧ ∀ d, d ≠ s.driveSelect → media[d]? = s.media[d]?)

theorem Committed.unchanged (s : State) (condition : Prop) : Committed s s.media condition :=
  ⟨rfl, fun changed => absurd rfl changed⟩

theorem Committed.setUnit {s : State} (write : s.cmdType.isWrite = true) (u : MediaUnit) :
    Committed s (s.media.set s.driveSelect u) True :=
  ⟨List.length_set, fun _ => ⟨write, trivial, fun _ other => media_set_other s u other⟩⟩

theorem Committed.weaken {s : State} {media : List MediaUnit} {p q : Prop} (h : Committed s media p) (imp : p → q) :
    Committed s media q :=
  ⟨h.1, fun changed => let ⟨write, holds, others⟩ := h.2 changed; ⟨write, imp holds, others⟩⟩

/-- A command that does not write leaves the media alone. -/
theorem Committed.eq_of_not_write {s : State} {media : List MediaUnit} {p : Prop} (h : Committed s media p)
    (write : s.cmdType.isWrite = false) : media = s.media := by
  by_contra changed
  obtain ⟨write', -⟩ := h.2 changed
  rw [write] at write'
  cases write'

/-! ### The ends of a record -/

theorem registers_endReadRecord (s : State) : registers (endReadRecord s) = registers s := by
  by_cases mismatch : CrcMismatch s
  · rw [endReadRecord_of_mismatch mismatch]
    rfl
  · rw [endReadRecord_of_no_mismatch mismatch]
    split <;> rfl

/-- At most the unit in the selected drive was written. -/
def UnitWritten (s t : State) : Prop :=
  ∃ u, registers t = { registers s with media := s.media.set s.driveSelect u }

theorem UnitWritten.trans {s t w : State} (first : UnitWritten s t) (second : UnitWritten t w) : UnitWritten s w := by
  obtain ⟨u, e⟩ := first
  obtain ⟨u', e'⟩ := second
  have media : t.media = s.media.set s.driveSelect u := congrArg Registers.media e
  have drive : t.driveSelect = s.driveSelect := congrArg Registers.driveSelect e
  exact ⟨u', by rw [e', e, media, drive, List.set_set]⟩

theorem unitWritten_memWrite (s : State) (off : Nat) (bytes : List Byte) : UnitWritten s (s.memWrite off bytes).1 :=
  ⟨_, by rw [memWrite_fst]; rfl⟩

theorem unitWritten_recordMetadata (s : State) : UnitWritten s s.recordMetadata := ⟨_, rfl⟩

theorem unitWritten_formatTrack (s : State) (t : Nat) (side : Bool) : UnitWritten s (s.formatTrack t side) := ⟨_, rfl⟩

theorem unitWritten_endWriteRecord (s : State) : UnitWritten s (endWriteRecord s) := by
  have written := unitWritten_memWrite (s.cancel .dataLoss) s.recOffset s.xferBuf
  rcases endWriteRecord_cases s with ⟨-, e⟩ | ⟨-, e⟩ <;> rw [e]
  · exact written
  · have recorded := written.trans (unitWritten_recordMetadata _)
    dsimp only
    split <;> exact recorded

theorem unitWritten_endWriteTrack (s : State) : UnitWritten s (endWriteTrack s) := by
  have written := (unitWritten_formatTrack (s.cancel .dataLoss) s.recTrack s.recSide).trans
    (unitWritten_memWrite _ s.recOffset s.xferBuf)
  unfold endWriteTrack
  dsimp only
  split <;> exact written

/-- R295: the end of a record writes at most the selected unit, and that only for a write command. -/
theorem registers_endOfRecord (s : State) : ∃ media, registers (endOfRecord s) = { registers s with media := media } ∧
    Committed s media True := by
  have kept (e : registers (endOfRecord s) = registers s) : ∃ media,
      registers (endOfRecord s) = { registers s with media := media } ∧ Committed s media True :=
    ⟨s.media, e, .unchanged s _⟩
  have written (write : s.cmdType.isWrite = true) (h : UnitWritten s (endOfRecord s)) : ∃ media,
      registers (endOfRecord s) = { registers s with media := media } ∧ Committed s media True :=
    let ⟨u, e⟩ := h
    ⟨_, e, .setUnit write u⟩
  cases tag : s.cmdType with
  | readSector => exact kept (by rw [endOfRecord_readRecord (.inl tag), registers_endReadRecord])
  | readMulti => exact kept (by rw [endOfRecord_readRecord (.inr tag), registers_endReadRecord])
  | readAddress => exact kept (by rw [endOfRecord_readImage (.inl tag)]; rfl)
  | readTrack => exact kept (by rw [endOfRecord_readImage (.inr tag)]; rfl)
  | writeSector =>
    exact written (by rw [tag]; rfl) (endOfRecord_writeRecord (.inl tag) ▸ unitWritten_endWriteRecord s)
  | writeMulti =>
    exact written (by rw [tag]; rfl) (endOfRecord_writeRecord (.inr tag) ▸ unitWritten_endWriteRecord s)
  | writeTrack => exact written (by rw [tag]; rfl) (endOfRecord_writeTrack tag ▸ unitWritten_endWriteTrack s)
  | idle => exact kept (by rw [endOfRecord, tag])
  | seek => exact kept (by rw [endOfRecord, tag])
  | forceInterrupt => exact kept (by rw [endOfRecord, tag])

/-! ### Opening a record (R291, R292) -/

theorem registers_openRead (t : Nat) (side : Bool) (k : Byte) (off : Nat) (bytes : List Byte) (crcOn : Bool)
    {s : State} (read : s.cmdType.isWrite = false) : ∃ data,
    registers (openRead t side k off bytes crcOn s) = { registers s with data := data } := by
  cases bytes with
  | nil =>
    rw [openRead_nil]
    obtain ⟨media, e, committed⟩ := registers_endOfRecord { s with
      recTrack := t, recSide := side, recSector := k, recOffset := off, xferBuf := [], xferLen := 0, xferPos := 0,
      xferCrcOn := crcOn, xferDir := .none, crcAcc := 0xFFFF }
    refine ⟨s.data, e.trans ?_⟩
    rw [committed.eq_of_not_write (by exact read)]
    rfl
  | cons b bs => exact ⟨b, rfl⟩

theorem registers_openWrite (t : Nat) (side : Bool) (k : Byte) (off len : Nat) (crcOn : Bool) (s : State) :
    ∃ media, registers (openWrite t side k off len crcOn s) = { registers s with media := media } ∧
      Committed s media (len = 0) := by
  by_cases empty : len = 0
  · subst empty
    rw [openWrite_zero]
    obtain ⟨media, e, committed⟩ := registers_endOfRecord { s with
      recTrack := t, recSide := side, recSector := k, recOffset := off, xferBuf := [], xferLen := 0, xferPos := 0,
      xferCrcOn := crcOn, xferDir := .none, crcAcc := 0xFFFF }
    exact ⟨media, e, committed.weaken fun _ => rfl⟩
  · rw [openWrite_pos (h := Nat.pos_of_ne_zero empty)]
    exact ⟨s.media, rfl, .unchanged s _⟩

/-- A sector of 0 bytes on the track under the head. -/
def EmptySectors (s : State) : Prop := ∃ g, s.unit.geometry s.physicalTrack = some g ∧ g.size = 0

theorem registers_openSector {s : State} {g : Zone} (hg : s.unit.geometry s.physicalTrack = some g) :
    ∃ data media, registers (openSector s) = { registers s with data := data, media := media } ∧
      Committed s media (EmptySectors s) := by
  cases read : s.cmdType.isRead with
  | true =>
    rw [openSector_read read]
    obtain ⟨data, e⟩ := registers_openRead s.physicalTrack s.side s.sector
      (s.unit.locate s.physicalTrack s.side s.sector.toNat)
      (s.unit.readBytes s.draws (s.unit.locate s.physicalTrack s.side s.sector.toNat)
        (s.unit.sectorSize s.physicalTrack)) true
      (s := { s with phase := .transferring, draws := s.draws + 1 }) (isWrite_of_isRead read)
    exact ⟨data, s.media, e, .unchanged s _⟩
  | false =>
    rw [openSector_write read]
    obtain ⟨media, e, committed⟩ := registers_openWrite s.physicalTrack s.side s.sector
      (s.unit.locate s.physicalTrack s.side s.sector.toNat) (s.unit.sectorSize s.physicalTrack) true
      { s with phase := .transferring }
    refine ⟨s.data, media, e, committed.weaken fun empty => ⟨g, hg, ?_⟩⟩
    rwa [sectorSize_eq hg] at empty

theorem registers_typeIISearch (s : State) : ∃ data cursor media,
    registers (typeIISearch s) = { registers s with data := data, rotationCursor := cursor, media := media } ∧
      Committed s media (EmptySectors s) := by
  rcases typeIISearch_cases s with ⟨-, e⟩ | ⟨g, p, id, hg, -, e⟩ <;> rw [e]
  · exact ⟨s.data, s.rotationCursor, s.media, rfl, .unchanged s _⟩
  · obtain ⟨data, media, opened, committed⟩ :=
      registers_openSector (s := { s with rotationCursor := (p + 1) % g.sectors }) hg
    exact ⟨data, _, media, opened, committed⟩

/-! ### The event handlers (R337) -/

theorem registers_readAddressSearch {s : State} (read : s.cmdType.isWrite = false) : ∃ data cursor,
    registers (readAddressSearch s) = { registers s with data := data, rotationCursor := cursor } := by
  cases hg : s.unit.geometry s.physicalTrack with
  | none =>
    rw [readAddressSearch_unreadable hg]
    exact ⟨s.data, s.rotationCursor, rfl⟩
  | some g =>
    cases hid : s.unit.sectorId s.physicalTrack s.side (s.rotationCursor % g.sectors) with
    | none =>
      rw [readAddressSearch_no_id hg hid]
      exact ⟨s.data, _, rfl⟩
    | some id =>
      rw [readAddressSearch_id hg hid]
      obtain ⟨data, e⟩ := registers_openRead s.physicalTrack s.side id.sec 0 (idRecord id) false
        (s := { s with rotationCursor := (s.rotationCursor % g.sectors + 1) % g.sectors, phase := .transferring }) read
      exact ⟨data, _, e⟩

theorem registers_readTrackSearch {s : State} (read : s.cmdType.isWrite = false) : ∃ data cursor,
    registers (readTrackSearch s) = { registers s with data := data, rotationCursor := cursor } := by
  cases hg : s.unit.geometry s.physicalTrack with
  | none =>
    rw [readTrackSearch_unreadable hg]
    exact ⟨s.data, s.rotationCursor, rfl⟩
  | some g =>
    rw [readTrackSearch_readable hg]
    obtain ⟨data, e⟩ := registers_openRead s.physicalTrack s.side 0 0
      (trackImage s.unit s.config.rtLayout s.draws s.physicalTrack s.side g) false
      (s := { s with rotationCursor := 0, phase := .readingTrack, draws := s.draws + g.sectors }) read
    exact ⟨data, _, e⟩

/-- A WRITE_TRACK of 0 bytes on a readable track. -/
def EmptyTrackImage (s : State) : Prop :=
  s.unit.geometry s.physicalTrack ≠ none ∧ s.writeTrackLength s.physicalTrack = 0

theorem registers_writeTrackSearch (s : State) : ∃ media,
    registers (writeTrackSearch s) = { registers s with media := media } ∧ Committed s media (EmptyTrackImage s) := by
  cases hg : s.unit.geometry s.physicalTrack with
  | none =>
    rw [writeTrackSearch_unreadable hg]
    exact ⟨s.media, rfl, .unchanged s _⟩
  | some g =>
    rw [writeTrackSearch_readable hg]
    obtain ⟨media, e, committed⟩ := registers_openWrite s.physicalTrack s.side 0
      (s.unit.locate s.physicalTrack s.side 0) (s.writeTrackLength s.physicalTrack) false
      { s with phase := .writingTrack }
    exact ⟨media, e, committed.weaken fun empty => ⟨by rw [hg]; exact Option.some_ne_none g, empty⟩⟩

/-- What lets a SEARCH event write the media: the record it opens is empty. -/
def EmptyRecord (s : State) : Prop :=
  (s.cmdType ≠ .writeTrack ∧ EmptySectors s) ∨ (s.cmdType = .writeTrack ∧ EmptyTrackImage s)

theorem registers_onSearch (s : State) : ∃ data cursor media,
    registers (onSearch s) = { registers s with data := data, rotationCursor := cursor, media := media } ∧
      Committed s media (EmptyRecord s) := by
  have typeII (h : s.cmdType.isTypeII = true) : ∃ data cursor media,
      registers (onSearch s) = { registers s with data := data, rotationCursor := cursor, media := media } ∧
        Committed s media (EmptyRecord s) := by
    have handled : onSearch s = typeIISearch s := handler_typeII (k := .search) (.inl rfl) h
    obtain ⟨data, cursor, media, e, committed⟩ := registers_typeIISearch s
    have other : s.cmdType ≠ .writeTrack := fun track => by
      rw [track] at h
      cases h
    exact ⟨data, cursor, media, (congrArg registers handled).trans e, committed.weaken fun empty => .inl ⟨other, empty⟩⟩
  have kept (e : ∃ data cursor, registers (onSearch s) =
      { registers s with data := data, rotationCursor := cursor }) : ∃ data cursor media,
      registers (onSearch s) = { registers s with data := data, rotationCursor := cursor, media := media } ∧
        Committed s media (EmptyRecord s) :=
    let ⟨data, cursor, e⟩ := e
    ⟨data, cursor, s.media, e, .unchanged s _⟩
  have idle (e : onSearch s = s) := kept ⟨s.data, s.rotationCursor, congrArg registers e⟩
  cases tag : s.cmdType with
  | readSector => exact typeII (by rw [tag]; rfl)
  | readMulti => exact typeII (by rw [tag]; rfl)
  | writeSector => exact typeII (by rw [tag]; rfl)
  | writeMulti => exact typeII (by rw [tag]; rfl)
  | readAddress =>
    exact kept (onSearch_readAddress tag ▸ registers_readAddressSearch (by rw [tag]; rfl))
  | readTrack => exact kept (onSearch_readTrack tag ▸ registers_readTrackSearch (by rw [tag]; rfl))
  | writeTrack =>
    have handled : onSearch s = writeTrackSearch s := by rw [onSearch, tag]
    obtain ⟨media, e, committed⟩ := registers_writeTrackSearch s
    exact ⟨s.data, s.rotationCursor, media, (congrArg registers handled).trans e,
      committed.weaken fun empty => .inr ⟨tag, empty⟩⟩
  | idle => exact idle (by rw [onSearch, tag])
  | seek => exact idle (by rw [onSearch, tag])
  | forceInterrupt => exact idle (by rw [onSearch, tag])

theorem registers_startMotion (s : State) : registers s.startMotion = registers s := by
  rw [startMotion_eq]
  rfl

theorem registers_onStepSeek (s : State) : ∃ head track,
    registers (onStepSeek s) = { registers s with physicalTrack := head, track := track } :=
  ⟨s.moveOneTrack.physicalTrack, s.moveOneTrack.track, registers_startMotion _⟩

theorem registers_onSeekEnd (s : State) : ∃ track cursor,
    registers (onSeekEnd s) = { registers s with track := track, rotationCursor := cursor } := by
  rw [onSeekEnd_eq]
  exact ⟨arrivalTrack s, arrivalCursor s, rfl⟩

theorem registers_onFiRearm (s : State) : registers (onFiRearm s) = registers s := by
  unfold onFiRearm
  split <;> rfl

theorem registers_onMulti1 (s : State) : registers (onMulti1 s) = { registers s with sector := s.sector + 1 } := by
  rw [onMulti1_eq]
  split <;> rfl

/-! ### The commands and the ports -/

theorem registers_prologue (s : State) : registers s.prologue = registers s := by
  rcases prologue_cases s with ⟨_, e⟩ | ⟨_, _, _, e⟩ | ⟨_, _, _, _, _, e⟩ | ⟨_, _, _, e⟩ <;> rw [e] <;> rfl

theorem registers_forceInterrupt (s : State) : registers s.forceInterrupt = registers s := by
  rw [State.forceInterrupt, fiSignal_eq]
  rfl

/-- No command's effect writes one of these fields. -/
theorem registers_body (i : Instr) (s : State) : registers (body i s) = registers s := by
  cases i with
  | forceInterrupt cond => exact registers_forceInterrupt s
  | restore h v r => exact registers_startMotion _
  | seek h v r => exact registers_startMotion _
  | step u h v r => exact registers_startMotion _
  | stepIn u h v r => exact registers_startMotion _
  | stepOut u h v r => exact registers_startMotion _
  | _ => exact registers_prologue _

/-- A session's last byte. -/
def LastByte (s : State) : Prop := s.drq = true ∧ s.xferPos + 1 = s.xferLen

theorem registers_writeDataPort (v : Byte) (s : State) : ∃ data media,
    registers (writeDataPort v s) = { registers s with data := data, media := media } ∧ (data = s.data ∨ data = v) ∧
      Committed s media (LastByte s) := by
  unfold writeDataPort
  split
  · next feeding =>
    rw [transferWriteByte_eq]
    split
    · next last =>
      obtain ⟨media, e, committed⟩ := registers_endOfRecord { byteCollected v s with drq := false, xferDir := .none }
      exact ⟨v, media, e, .inr rfl, committed.weaken fun _ => ⟨(Bool.and_eq_true _ _ ▸ feeding).2, last⟩⟩
    · exact ⟨v, s.media, rfl, .inr rfl, .unchanged s _⟩
  · split
    · exact ⟨s.data, s.media, rfl, .inl rfl, .unchanged s _⟩
    · exact ⟨v, s.media, rfl, .inr rfl, .unchanged s _⟩

theorem registers_readDataPort (s : State) : ∃ data,
    registers (readDataPort s) = { registers s with data := data } := by
  unfold readDataPort
  split
  · next draining =>
    have read : s.cmdType.isWrite = false := isWrite_of_isRead (Bool.and_eq_true _ _ ▸ draining).1
    rw [transferReadByte_eq]
    split
    · obtain ⟨media, e, committed⟩ := registers_endOfRecord { byteServed s with drq := false, xferDir := .none }
      refine ⟨s.data, Eq.trans e ?_⟩
      rw [committed.eq_of_not_write (by exact read)]
      rfl
    · exact ⟨_, rfl⟩
  · exact ⟨s.data, rfl⟩

/-! ### A step -/

/-- The writers of the table of R44: the stimulus or event of a step from `s`, and what it may leave in the fields. -/
inductive Wrote (s : State) : Registers → Prop
  | nothing : Wrote s (registers s)
  | reset {r : Registers} (taken : Takes s .reset) (config : r.config = s.config) (media : r.media = s.media)
      (drive : r.driveSelect = s.driveSelect) (side : r.side = s.side) (motor : r.motorOn = s.motorOn) : Wrote s r
  | control (v : Byte) (taken : Takes s (.write .control v)) : Wrote s { registers s with command := v }
  | trackPort (v : Byte) (taken : Takes s (.write .track v)) : Wrote s { registers s with track := v }
  | sectorPort (v : Byte) (taken : Takes s (.write .sector v)) : Wrote s { registers s with sector := v }
  | dataWrite (v data : Byte) (media : List MediaUnit) (taken : Takes s (.write .data v))
      (value : data = s.data ∨ data = v) (committed : Committed s media (LastByte s)) :
      Wrote s { registers s with data := data, media := media }
  | dataRead (data : Byte) (taken : Takes s (.read .data)) : Wrote s { registers s with data := data }
  | inputs (drive : Nat) (side motor : Bool) (taken : Takes s (.set drive side motor)) :
      Wrote s { registers s with driveSelect := drive, side := side, motorOn := motor }
  | mediaAccess (drive : Nat) (unit : MediaUnit) (taken : Takes s (.media drive unit)) :
      Wrote s { registers s with media := s.media.set drive unit }
  | stepSeek (head : Nat) (track : Byte) (fires : Fires s .stepSeek) :
      Wrote s { registers s with physicalTrack := head, track := track }
  | seekEnd (track : Byte) (cursor : Nat) (fires : Fires s .seekEnd) :
      Wrote s { registers s with track := track, rotationCursor := cursor }
  | search (data : Byte) (cursor : Nat) (media : List MediaUnit) (fires : Fires s .search)
      (committed : Committed s media (EmptyRecord s)) :
      Wrote s { registers s with data := data, rotationCursor := cursor, media := media }
  | multi2 (data : Byte) (cursor : Nat) (media : List MediaUnit) (fires : Fires s .multi2)
      (committed : Committed s media (EmptySectors s)) :
      Wrote s { registers s with data := data, rotationCursor := cursor, media := media }
  | multi1 (sector : Byte) (fires : Fires s .multi1) : Wrote s { registers s with sector := sector }

/-- A firing, whatever stimuli are left behind it. -/
theorem wrote_fire {s : State} (firing : s.host = [] ∨ Takes s .fire) (rest : List Stimulus) :
    Wrote s (registers (fire { s with host := rest })) := by
  let s' := { s with host := rest }
  cases hnext : s.slots.next with
  | none =>
    rw [fire_none (by exact hnext)]
    exact .nothing
  | some e =>
    obtain ⟨k, x⟩ := e
    by_cases live : x.owner = s.cmdType
    · have fires : Fires s k := ⟨firing, x, hnext⟩
      rw [fire_live (s := s') hnext live]
      let taken : State := { s' with now := x.fireTime, slots := s.slots.put k none }
      show Wrote s (registers (handler k taken))
      cases k with
      | stepSeek =>
        obtain ⟨head, track, e⟩ := registers_onStepSeek taken
        exact e ▸ .stepSeek head track fires
      | seekEnd =>
        obtain ⟨track, cursor, e⟩ := registers_onSeekEnd taken
        exact e ▸ .seekEnd track cursor fires
      | search =>
        obtain ⟨data, cursor, media, e, committed⟩ := registers_onSearch taken
        exact e ▸ .search data cursor media fires committed
      | fiRearm => exact registers_onFiRearm taken ▸ .nothing
      | multi1 => exact registers_onMulti1 taken ▸ .multi1 _ fires
      | multi2 =>
        obtain ⟨data, cursor, media, e, committed⟩ := registers_typeIISearch taken
        exact e ▸ .multi2 data cursor media fires committed
      | dataLoss => exact .nothing
    · rw [fire_stale (s := s') hnext live]
      exact .nothing

/-- A command write: COMMAND, or nothing when it is ignored. -/
theorem wrote_exec {s : State} {v : Byte} (taken : Takes s (.write .control v)) (rest : List Stimulus) :
    Wrote s (registers (executed (decode v) { s with host := rest })) := by
  unfold executed
  split
  · exact .nothing
  · rw [registers_body]
    show Wrote s { registers s with command := encode (decode v) }
    rw [encodeOfDecodeIsTheByte]
    exact .control v taken

theorem wrote_writePort {s u : State} {p : Port} {v : Byte} (taken : Takes s (.write p v)) {rest : List Stimulus}
    (h : writePort p v { s with host := rest } = .next u) : Wrote s (registers u) := by
  cases p with
  | control =>
    obtain rfl := Host.Outcome.next.inj ((exec_eq_executed _ _).symm.trans h)
    exact wrote_exec taken rest
  | track =>
    obtain rfl := Host.Outcome.next.inj h
    rw [writeTrackPort_eq]
    split
    · exact .nothing
    · exact .trackPort v taken
  | sector =>
    obtain rfl := Host.Outcome.next.inj h
    rw [writeSectorPort_eq]
    split
    · exact .nothing
    · exact .sectorPort v taken
  | data =>
    obtain rfl := Host.Outcome.next.inj h
    obtain ⟨data, media, e, value, committed⟩ := registers_writeDataPort v { s with host := rest }
    rw [e]
    exact .dataWrite v data media taken value committed

theorem wrote_readPort {s : State} {p : Port} (taken : Takes s (.read p)) (rest : List Stimulus) :
    Wrote s (registers (readPort p { s with host := rest })) := by
  cases p with
  | control =>
    rw [readPort, readStatus_eq]
    exact .nothing
  | track => exact .nothing
  | sector => exact .nothing
  | data =>
    obtain ⟨data, e⟩ := registers_readDataPort { s with host := rest }
    rw [readPort, e]
    exact .dataRead data taken

/-- Every step of every state is one of the writers of the table of R44. -/
theorem wrote_step {s u : State} (h : step s = .next u) : Wrote s (registers u) := by
  cases hhost : s.host with
  | nil =>
    obtain rfl := Host.Outcome.next.inj ((step_nil hhost).symm.trans h)
    have same : s = { s with host := [] } := by rw [← hhost]
    have wrote := wrote_fire (.inl hhost) []
    rwa [← same] at wrote
  | cons x rest =>
    have taken : Takes s x := by rw [Takes, hhost]; rfl
    rw [step_cons hhost] at h
    unfold takeStimulus at h
    cases x with
    | write p v => exact wrote_writePort taken h
    | read p =>
      obtain rfl := Host.Outcome.next.inj h
      exact wrote_readPort taken rest
    | set drive side motor =>
      dsimp only at h
      split at h
      · obtain rfl := Host.Outcome.next.inj h
        exact .inputs drive side motor taken
      · cases h
    | fire =>
      obtain rfl := Host.Outcome.next.inj h
      exact wrote_fire (.inr taken) rest
    | reset =>
      obtain rfl := Host.Outcome.next.inj h
      exact .reset taken rfl rfl rfl rfl rfl
    | media drive unit =>
      dsimp only at h
      split at h
      · cases h
      · split at h
        · obtain rfl := Host.Outcome.next.inj h
          exact .mediaAccess drive unit taken
        · cases h

/-! ### The writers of one field -/

section

variable {s : State} {r : Registers} (wrote : Wrote s r)
include wrote

theorem Wrote.config_eq : r.config = s.config := by
  cases wrote with
  | reset _ config => exact config
  | _ => rfl

theorem Wrote.drives_eq : r.media.length = s.media.length := by
  cases wrote with
  | reset _ _ media => rw [media]
  | mediaAccess => exact List.length_set
  | dataWrite _ _ _ _ _ committed => exact committed.1
  | search _ _ _ _ committed => exact committed.1
  | multi2 _ _ _ _ committed => exact committed.1
  | _ => rfl

theorem Wrote.writers_command (changed : r.command ≠ s.command) :
    Takes s .reset ∨ ∃ v, Takes s (.write .control v) ∧ r.command = v := by
  cases wrote with
  | reset taken => exact .inl taken
  | control v taken => exact .inr ⟨v, taken, rfl⟩
  | _ => exact absurd rfl changed

theorem Wrote.writers_track (changed : r.track ≠ s.track) : Takes s .reset ∨ Fires s .stepSeek ∨ Fires s .seekEnd ∨
    ∃ v, Takes s (.write .track v) ∧ r.track = v := by
  cases wrote with
  | reset taken => exact .inl taken
  | stepSeek _ _ fires => exact .inr (.inl fires)
  | seekEnd _ _ fires => exact .inr (.inr (.inl fires))
  | trackPort v taken => exact .inr (.inr (.inr ⟨v, taken, rfl⟩))
  | _ => exact absurd rfl changed

theorem Wrote.writers_sector (changed : r.sector ≠ s.sector) : Takes s .reset ∨ Fires s .multi1 ∨
    ∃ v, Takes s (.write .sector v) ∧ r.sector = v := by
  cases wrote with
  | reset taken => exact .inl taken
  | multi1 _ fires => exact .inr (.inl fires)
  | sectorPort v taken => exact .inr (.inr ⟨v, taken, rfl⟩)
  | _ => exact absurd rfl changed

theorem Wrote.writers_data (changed : r.data ≠ s.data) : Takes s .reset ∨ Fires s .search ∨ Fires s .multi2 ∨
    Takes s (.read .data) ∨ ∃ v, Takes s (.write .data v) ∧ r.data = v := by
  cases wrote with
  | reset taken => exact .inl taken
  | search _ _ _ fires => exact .inr (.inl fires)
  | multi2 _ _ _ fires => exact .inr (.inr (.inl fires))
  | dataRead _ taken => exact .inr (.inr (.inr (.inl taken)))
  | dataWrite v _ _ taken value => exact .inr (.inr (.inr (.inr ⟨v, taken, value.resolve_left changed⟩)))
  | _ => exact absurd rfl changed

theorem Wrote.writers_physicalTrack (changed : r.physicalTrack ≠ s.physicalTrack) :
    Takes s .reset ∨ Fires s .stepSeek := by
  cases wrote with
  | reset taken => exact .inl taken
  | stepSeek _ _ fires => exact .inr fires
  | _ => exact absurd rfl changed

theorem Wrote.writers_rotationCursor (changed : r.rotationCursor ≠ s.rotationCursor) :
    Takes s .reset ∨ Fires s .search ∨ Fires s .multi2 ∨ Fires s .seekEnd := by
  cases wrote with
  | reset taken => exact .inl taken
  | search _ _ _ fires => exact .inr (.inl fires)
  | multi2 _ _ _ fires => exact .inr (.inr (.inl fires))
  | seekEnd _ _ fires => exact .inr (.inr (.inr fires))
  | _ => exact absurd rfl changed

theorem Wrote.writers_inputs (changed : r.driveSelect ≠ s.driveSelect ∨ r.side ≠ s.side ∨ r.motorOn ≠ s.motorOn) :
    Takes s (.set r.driveSelect r.side r.motorOn) := by
  have kept (drive : r.driveSelect = s.driveSelect) (side : r.side = s.side) (motor : r.motorOn = s.motorOn) : False := by
    rcases changed with changed | changed | changed
    exacts [changed drive, changed side, changed motor]
  cases wrote with
  | reset _ _ _ drive side motor => exact (kept drive side motor).elim
  | inputs _ _ _ taken => exact taken
  | _ => exact (kept rfl rfl rfl).elim

theorem Wrote.writers_media (changed : r.media ≠ s.media) :
    (∃ drive unit, Takes s (.media drive unit) ∧ r.media = s.media.set drive unit) ∨
      (s.cmdType.isWrite = true ∧ (∀ d, d ≠ s.driveSelect → r.media[d]? = s.media[d]?) ∧
        ((∃ v, Takes s (.write .data v) ∧ LastByte s) ∨ (Fires s .multi2 ∧ EmptySectors s) ∨
          (Fires s .search ∧ EmptyRecord s))) := by
  cases wrote with
  | reset _ _ media => exact absurd media changed
  | mediaAccess drive unit taken => exact .inl ⟨drive, unit, taken, rfl⟩
  | dataWrite v _ _ taken _ committed =>
    obtain ⟨write, last, others⟩ := committed.2 changed
    exact .inr ⟨write, others, .inl ⟨v, taken, last⟩⟩
  | search _ _ _ fires committed =>
    obtain ⟨write, empty, others⟩ := committed.2 changed
    exact .inr ⟨write, others, .inr (.inr ⟨fires, empty⟩)⟩
  | multi2 _ _ _ fires committed =>
    obtain ⟨write, empty, others⟩ := committed.2 changed
    exact .inr ⟨write, others, .inr (.inl ⟨fires, empty⟩)⟩
  | _ => exact absurd rfl changed

end

/-- Settles O56: a step is one of the writers of R44 (`wrote_step`), and each field has its own. -/
theorem registersAreWrittenOnlyByTheirWriters : Obligations.RegistersAreWrittenOnlyByTheirWriters := by
  intro s t h
  have wrote := wrote_step h
  exact ⟨wrote.config_eq, wrote.drives_eq, wrote.writers_command, wrote.writers_track, wrote.writers_sector,
    wrote.writers_data, wrote.writers_physicalTrack, wrote.writers_rotationCursor, wrote.writers_inputs⟩

/-- Settles O57: the writers of the media (`Wrote.writers_media`). -/
theorem mediaChangeOnlyAtTheEndOfAWriteRecord : Obligations.MediaChangeOnlyAtTheEndOfAWriteRecord := by
  intro s t h changed
  rcases (wrote_step h).writers_media changed with access | ⟨write, others, last | ⟨fires, empty⟩ | ⟨fires, empty⟩⟩
  · exact .inl access
  · exact .inr ⟨(isWrite_iff _).mp write, others, .inl last⟩
  · exact .inr ⟨(isWrite_iff _).mp write, others, .inr (.inl ⟨.inl fires, empty⟩)⟩
  · refine .inr ⟨(isWrite_iff _).mp write, others, .inr ?_⟩
    rcases empty with ⟨other, sectors⟩ | ⟨track, readable, length⟩
    · exact .inl ⟨.inr ⟨fires, other⟩, sectors⟩
    · exact .inr ⟨fires, track, readable, length⟩

end Sys2Proof.Proofs
end
